-- ==== Sys2Proof/Word.lean ====
section
/-! DEFINITION. The word types of the two channels and of the fields they carry. -/

namespace Sys2Proof

/-- A command word or a response word: `CMD_W = RSP_W = 64` bits, bit 63 the most significant (00_scope.md R4, R5;
20_memory.md R31, R32). -/
abbrev Word := BitVec 64

/-- A 16-bit field of a word: a sample (`SAMPLE_W`) or a plane length (`LEN_W`), 00_scope.md R4. -/
abbrev Field16 := BitVec 16

end Sys2Proof
end

