-- ==== Sys2Proof/Syntax.lean ====
section
/-! DEFINITION. The value types of 10_state.md section 1 and the commands of spec/opcode_table.json. -/

namespace Sys2Proof

/-- The closed set of colour spaces (10_state.md R13). -/
inductive ColorSpace
  | bt601 | bt709 | fcc | bt470bg | smpte240 | ycgco | identity
  deriving DecidableEq, Repr

/-- The signal range of the input (10_state.md R12). Named with a prefix because Lean has a `Range` of its own. -/
inductive SignalRange
  | studio | full
  deriving DecidableEq, Repr

/-- A bit depth, one of 8, 10, 12, 16 (10_state.md R11). -/
inductive BitDepth
  | d8 | d10 | d12 | d16
  deriving DecidableEq, Repr

/-- An ordered output triple, semantically (R, G, B) (10_state.md R14). -/
structure Rgb where
  r : Nat
  g : Nat
  b : Nat
  deriving DecidableEq, Repr

/-- The commands, one constructor per row of spec/opcode_table.json, each with the raw fields the decoder of
30_encoding.md R54 returns: a field that can hold an illegal value is checked when the command executes, not here. -/
inductive Instr
  /-- Row `CVT`, op 0b01: convert one pixel (44_converter_commands.md R122). -/
  | cvt (y cb cr : Field16) (space : BitVec 3) (range : BitVec 1) (din dout : BitVec 5)
  /-- Row `PLANE`, op 0b10: open a batch (44_converter_commands.md R124). -/
  | plane (lenY lenCb lenCr : Field16) (space : BitVec 3) (range : BitVec 1) (din dout : BitVec 5)
  /-- Row `DATA`, op 0b11: one position of the open batch; `rsv` is the reserved field `w[13:0]`
  (44_converter_commands.md R126; 30_encoding.md R52). -/
  | data (y cb cr : Field16) (rsv : BitVec 14)
  deriving DecidableEq, Repr

end Sys2Proof
end

