-- ==== Sys2Proof/Config.lean ====
section
/-! DEFINITION. What an implementation fixes: the configuration fields of 00_scope.md R4, whose default values stand in
Machine/Defaults.lean, and one number the spec leaves open. -/

namespace Sys2Proof

/-- One entry of `KTAB`: Kr = a / k, Kb = b / k (40_colorspace_descriptor.md R70, R71). -/
structure KrKb where
  a : Int
  b : Int
  k : Int
  deriving DecidableEq, Repr

/-- The coefficient table of the five Kr/Kb families (40_colorspace_descriptor.md R72 to R76). -/
structure Ktab where
  bt601 : KrKb
  bt709 : KrKb
  fcc : KrKb
  bt470bg : KrKb
  smpte240 : KrKb
  deriving DecidableEq, Repr

/-- One row of an inverse matrix: the multiples of luma, of the second and of the third channel. -/
structure MatrixRow where
  luma : Int
  second : Int
  third : Int
  deriving DecidableEq, Repr

/-- `YCGCO`, the inverse matrix of the YCgCo space (40_colorspace_descriptor.md R77). -/
structure YCgCo where
  r : MatrixRow
  g : MatrixRow
  b : MatrixRow
  deriving DecidableEq, Repr

/-- `SOR_POLICY`, what an out-of-range sample does (00_scope.md R4; 60_exceptions.md R143). The spec specifies `fail` only. -/
inductive SorPolicy
  | fail | mask | clamp
  deriving DecidableEq, Repr

/-- The configuration fields of 00_scope.md R4. -/
structure Config where
  ktab : Ktab
  ycgco : YCgCo
  depthsIn : List BitDepth
  depthsOut : List BitDepth
  sorPolicy : SorPolicy
  deriving DecidableEq, Repr

/-- The constraint on an entry of `KTAB` (40_colorspace_descriptor.md R79). -/
def KrKb.valid (e : KrKb) : Bool :=
  decide (1 ≤ e.a) && decide (1 ≤ e.b) && decide (1 ≤ e.k) && decide (e.a + e.b < e.k)

/-- Every entry of the table meets 40_colorspace_descriptor.md R79. -/
def Ktab.valid (t : Ktab) : Bool :=
  t.bt601.valid && t.bt709.valid && t.fcc.valid && t.bt470bg.valid && t.smpte240.valid

/-- How many commands the block accepts before a response must be taken: any number, at least zero (70_reset_and_hazards.md R173;
93_implementation_defined.md U13). A free value: every statement holds whatever it is (log entry 10). -/
opaque acceptAhead : Nat

end Sys2Proof
end

