-- ==== Sys2Proof/WellFormed.lean ====
section
/-! DEFINITION. Which commands are well-formed words of spec/opcode_table.json (30_encoding.md R52, R55, R61). -/

namespace Sys2Proof

/-- A command is well-formed when its word meets its row's mask and match in spec/opcode_table.json. CVT and PLANE words
have no reserved bits; DATA's `w[13:0]` must be zero (30_encoding.md R52, R55). An ill-formed DATA still decodes and still
executes (44_converter_commands.md R126). -/
def Instr.wellFormed : Instr → Bool
  | .cvt _ _ _ _ _ _ _ => true
  | .plane _ _ _ _ _ _ _ => true
  | .data _ _ _ rsv => rsv == 0

/-- The four legal values of a depth field (30_encoding.md R50). -/
def legalDepthField (d : BitVec 5) : Bool :=
  d == 8 || d == 10 || d == 12 || d == 16

/-- A command names a good command when it is none of cases (b), (c), (d) of 30_encoding.md R61: no reserved DATA bit is set,
the colour space is not the reserved code 7, and both depths are legal. Case (a), op 0b00, is no command at all. -/
def Instr.goodEncoding : Instr → Bool
  | .cvt _ _ _ space _ din dout => space != 7 && legalDepthField din && legalDepthField dout
  | .plane _ _ _ space _ din dout => space != 7 && legalDepthField din && legalDepthField dout
  | .data _ _ _ rsv => rsv == 0

end Sys2Proof
end

