-- ==== Sys2Proof/Decode.lean ====
section
/-! DEFINITION. The decoder of 30_encoding.md R54, total on every 64-bit word, and the encoder of R66. -/

namespace Sys2Proof

/-- `w[lo+len-1 : lo]` as an unsigned field (00_scope.md R5). -/
def field (w : Word) (lo len : Nat) : BitVec len :=
  w.extractLsb' lo len

/-- The field `op = w[63:62]` (30_encoding.md R46). -/
def opField (w : Word) : BitVec 2 := field w 62 2

/-- Why the decoder names no command: the one illegal opcode, `op = 0b00` (30_encoding.md R46, R61 (a)). This is `Illegal` of
R54; the machine answers such a word with a response (60_exceptions.md R145 (a), R146 (b)). -/
inductive DecodeError
  | illegalOp
  deriving DecidableEq, Repr

/-- 30_encoding.md R54 with the field layout of R45: decoding depends on the word alone and never on the state. -/
def decode (w : Word) : Except DecodeError Instr :=
  match (opField w).toNat with
  | 1 => .ok (.cvt (field w 46 16) (field w 30 16) (field w 14 16) (field w 11 3) (field w 10 1) (field w 5 5) (field w 0 5))
  | 2 => .ok (.plane (field w 46 16) (field w 30 16) (field w 14 16) (field w 11 3) (field w 10 1) (field w 5 5) (field w 0 5))
  | 3 => .ok (.data (field w 46 16) (field w 30 16) (field w 14 16) (field w 0 14))
  | _ => .error .illegalOp

/-- The instruction the decoder reads from a table word of `nbits` bits; a command word travels whole, so the 64-bit number is
the word itself (20_memory.md R32). -/
def decodeTableWord (nbits w : Nat) : Option Instr :=
  match decode (BitVec.ofNat 64 (w % 2 ^ nbits)) with
  | .ok i => some i
  | .error _ => none

/-- The last fourteen bits of a CVT or PLANE word: space, range, input depth, output depth (30_encoding.md R45). The parameter
register `P` has the same layout (10_state.md R21). -/
def packParams (space : BitVec 3) (range : BitVec 1) (din dout : BitVec 5) : BitVec 14 :=
  space ++ range ++ din ++ dout

/-- A command's opcode bits (30_encoding.md R46). -/
def Instr.op : Instr → BitVec 2
  | .cvt _ _ _ _ _ _ _ => 1
  | .plane _ _ _ _ _ _ _ => 2
  | .data _ _ _ _ => 3

/-- Concatenation of the five parts of a C64 word, high bits first (30_encoding.md R45). -/
def c64 (op : BitVec 2) (a b c : Field16) (low : BitVec 14) : Word :=
  op ++ a ++ b ++ c ++ low

/-- The encoding function `enc` of 30_encoding.md R66 on the commands. -/
def encode : Instr → Word
  | .cvt y cb cr space range din dout => c64 1 y cb cr (packParams space range din dout)
  | .plane ly lcb lcr space range din dout => c64 2 ly lcb lcr (packParams space range din dout)
  | .data y cb cr rsv => c64 3 y cb cr rsv

end Sys2Proof
end

