-- ==== Sys2Proof/Machine/State.lean ====
section
/-! DEFINITION. The machine's state as the spec gives it, its stops, and the state after reset. -/

namespace Sys2Proof.Machine

/-- `MODE`: whether a batch is open (10_state.md R19). -/
inductive Mode
  | idle | batch
  deriving DecidableEq, Repr

/-- The whole state: the four elements of 10_state.md R18, the two channels of 20_memory.md R31, and one input of the host.
There is no memory, no register file and no program counter (10_state.md R15, R16, R24). -/
structure State where
  /-- `MODE` (10_state.md R19). -/
  mode : Mode
  /-- `P`, the parameter register: space [13:11], range [10], din [9:5], dout [4:0] (10_state.md R21). -/
  p : BitVec 14
  /-- `REM`, the DATA commands the open batch still expects (10_state.md R20). -/
  rem : BitVec 16
  /-- `BERR`, some beat of the open batch has failed (10_state.md R22). -/
  berr : Bool
  /-- `CMD`, command words pushed and not yet popped, oldest first (20_memory.md R31). -/
  cmd : List Word
  /-- `RSP`, response words pushed and not yet taken, oldest first (20_memory.md R31). -/
  rsp : List Word
  /-- The model's own field: `RSP` can take a word now (20_memory.md R38). Only the host changes it. -/
  rspReady : Bool
  deriving DecidableEq, Repr

/-- Where the model stops although the hardware is not said to. -/
inductive Fault
  /-- Raised by a well-formed DATA in BATCH mode when `P` holds a value that fails PLANE's own parameter checks. By
  10_state.md R21 no reachable state holds one. SAFE: the machine stops where the spec says nothing (log entry 2). -/
  | illegalParameters
  deriving DecidableEq, Repr

/-- Where the model gives no meaning. -/
inductive Refusal
  /-- Raised by a refused arm of `exec` only; no arm is refused. SAFE. -/
  | notModelled (mnemonic : String)
  /-- Raised by CVT and DATA on an out-of-range sample under a `SOR_POLICY` other than `fail`, which the spec does not
  specify and asks a model to refuse (93_implementation_defined.md U1). The policy of `cfg` is `fail`, so no run raises it.
  SAFE (log entry 4). -/
  | sorPolicyUnspecified
  deriving DecidableEq, Repr

/-- The state after reset (10_state.md R25; 70_reset_and_hazards.md R166, R167). `rspReady` is no state of the block; its
value here is a DESIGN CHOICE, unsafe (log entry 3). -/
def State.reset : State where
  mode := .idle
  p := 0
  rem := 0
  berr := false
  cmd := []
  rsp := []
  rspReady := true

end Sys2Proof.Machine
end

