-- ==== Sys2Proof/Machine/Flags.lean ====
section
/-! DEFINITION. What plays the part of flags: the status of a response and the bits `op`, `last`, `berr` beside it, and the
response word that carries them (10_state.md R22; 30_encoding.md R56 to R60). -/

namespace Sys2Proof.Machine

/-- The outcome of a command (30_encoding.md R58). Codes 7 to 15 have no constructor: they are never produced (R60). -/
inductive Status
  | ok | invalidBitDepth | planeLengthMismatch | sampleOutOfRange | reservedColorSpace | illegalCommand | sequenceError
  deriving DecidableEq, Repr

/-- The 4-bit code of a status (30_encoding.md R58). -/
def statusCode : Status → BitVec 4
  | .ok => 0
  | .invalidBitDepth => 1
  | .planeLengthMismatch => 2
  | .sampleOutOfRange => 3
  | .reservedColorSpace => 4
  | .illegalCommand => 5
  | .sequenceError => 6

/-- The encoding of `MODE` (10_state.md R19). -/
def modeBit : Mode → BitVec 1
  | .idle => 0
  | .batch => 1

/-- A response before it is made a word: the seven arguments of `respond` (30_encoding.md R56). -/
structure Response where
  status : Status
  op : BitVec 2
  last : Bool
  berr : Bool
  rgb : Rgb
  deriving DecidableEq, Repr

/-- The triple of every response that carries no pixel (30_encoding.md R57). -/
def noRgb : Rgb := ⟨0, 0, 0⟩

/-- The response word: status [63:60], op [59:58], last [57], berr [56], zero [55:48], r [47:32], g [31:16], b [15:0]
(30_encoding.md R56). -/
def responseWord (x : Response) : Word :=
  statusCode x.status ++ x.op ++ BitVec.ofBool x.last ++ BitVec.ofBool x.berr ++ (0 : BitVec 8)
    ++ BitVec.ofNat 16 x.rgb.r ++ BitVec.ofNat 16 x.rgb.g ++ BitVec.ofNat 16 x.rgb.b

/-- The fields of a response word as the host reads them (30_encoding.md R56). -/
def rspStatus (w : Word) : BitVec 4 := field w 60 4
/-- The opcode echo of a response word. -/
def rspOp (w : Word) : BitVec 2 := field w 58 2
/-- The bit `last` of a response word. -/
def rspLast (w : Word) : BitVec 1 := field w 57 1
/-- The bit `berr` of a response word. -/
def rspBerr (w : Word) : BitVec 1 := field w 56 1
/-- The reserved bits of a response word. -/
def rspReserved (w : Word) : BitVec 8 := field w 48 8
/-- The R sample of a response word. -/
def rspR (w : Word) : Field16 := field w 32 16
/-- The G sample of a response word. -/
def rspG (w : Word) : Field16 := field w 16 16
/-- The B sample of a response word. -/
def rspB (w : Word) : Field16 := field w 0 16

end Sys2Proof.Machine
end

