-- ==== Sys2Proof/Machine/Ops.lean ====
section
/-! DEFINITION. The named operations over the state: answering, failing, aborting a batch, opening one, counting a beat, and
the two channels. An error takes the place of an exception: it is a response, nothing is saved and nothing returns from it
(60_exceptions.md R140, R150, R151). -/

namespace Sys2Proof.Machine

/-- What an instruction's meaning answers. -/
abbrev Result := Host.Outcome State Fault Refusal

/-- `respond`: push one response word on `RSP` (00_scope.md R7; 30_encoding.md R56). -/
def respond (x : Response) (s : State) : State :=
  { s with rsp := s.rsp ++ [responseWord x] }

/-- A command that fails outside a batch: its error status, the echo of its opcode, no pixel, and no state change
(60_exceptions.md R140, R149). -/
def failCommand (st : Status) (op : BitVec 2) (s : State) : State :=
  respond ⟨st, op, false, false, noRgb⟩ s

/-- A word other than DATA in BATCH mode: the batch is aborted with SequenceError and the word is discarded
(60_exceptions.md R146 (b)). `P` keeps its value. -/
def abortBatch (op : BitVec 2) (s : State) : State :=
  respond ⟨.sequenceError, op, true, true, noRgb⟩ { s with mode := .idle, rem := 0, berr := false }

/-- An accepted PLANE of nonzero length: all of `P`, `REM`, `BERR`, `MODE` are written (44_converter_commands.md R124). -/
def openBatch (p : BitVec 14) (len : Field16) (s : State) : State :=
  respond ⟨.ok, 2, false, false, noRgb⟩ { s with mode := .batch, p := p, rem := len, berr := false }

/-- `BERR` after a beat's own update (44_converter_commands.md R126). -/
def beatBerr (st : Status) (s : State) : Bool := s.berr || st != .ok

/-- Whether this beat is the last position of the batch (44_converter_commands.md R126). -/
def lastBeat (s : State) : Bool := s.rem - 1 == 0

/-- A counted beat: `BERR` updated, `REM` decremented, and the batch closed by its last position
(44_converter_commands.md R126). -/
def countBeat (st : Status) (t : Rgb) (s : State) : State :=
  respond ⟨st, 3, lastBeat s, lastBeat s && beatBerr st s, t⟩
    { s with
      mode := if lastBeat s then .idle else s.mode
      rem := s.rem - 1
      berr := if lastBeat s then false else beatBerr st s }

/-- `CmdPop`: the oldest command word and the state without it; `none` while the block waits, because `RSP` cannot take a word
or `CMD` is empty (00_scope.md R7; 20_memory.md R38). -/
def cmdPop (s : State) : Option (Word × State) :=
  match s.rspReady, s.cmd with
  | true, w :: ws => some (w, { s with cmd := ws })
  | true, [] => none
  | false, _ => none

/-- The commands accepted and not yet done with: those on `CMD`, and those whose response the host has not taken from `RSP`. -/
def outstanding (s : State) : Nat := s.cmd.length + s.rsp.length

/-- `CMD` accepts a word: fewer than `acceptAhead` commands are outstanding, or none is and the host is ready for the response,
so that a block that accepts none ahead still passes one at a time (70_reset_and_hazards.md R173; log entry 10). -/
def cmdReady (s : State) : Bool :=
  (s.rspReady && s.cmd.isEmpty && s.rsp.isEmpty) || decide (outstanding s < acceptAhead)

/-- What the host can do to the block, between two commands (20_memory.md R31, R38; 70_reset_and_hazards.md R165). -/
inductive HostAct
  /-- Offer a command word on `CMD`, which moves only if `CMD` accepts it. -/
  | push (w : Word)
  /-- Take the oldest response word of `RSP`, if there is one. -/
  | take
  /-- Let `RSP` take words, or stop it from taking any. -/
  | setReady (ready : Bool)
  /-- Assert and release `rst`. -/
  | reset
  deriving DecidableEq, Repr

/-- The reset event, at any time and in any state (70_reset_and_hazards.md R165, R166, R168). The host's own readiness is no
state of the block and stays. -/
def assertReset (s : State) : State := { State.reset with rspReady := s.rspReady }

/-- The state after a host action. A word that `CMD` does not accept stays with the host, and nothing changes
(20_memory.md R31; 70_reset_and_hazards.md R173). -/
def hostAct (a : HostAct) (s : State) : State :=
  match a with
  | .push w => if cmdReady s then { s with cmd := s.cmd ++ [w] } else s
  | .take => { s with rsp := s.rsp.tail }
  | .setReady r => { s with rspReady := r }
  | .reset => assertReset s

end Sys2Proof.Machine
end

