-- ==== Sys2Proof/Machine/Defaults.lean ====
section
/-! DEFINITION. The default values of the configuration (00_scope.md R4; 92_eei_decisions.md section 6). -/

namespace Sys2Proof.Machine

/-- `KTAB` (40_colorspace_descriptor.md R72 to R76). -/
def ktabDefault : Ktab where
  bt601 := ⟨299, 114, 1000⟩
  bt709 := ⟨2126, 722, 10000⟩
  fcc := ⟨30, 11, 100⟩
  bt470bg := ⟨299, 114, 1000⟩
  smpte240 := ⟨212, 87, 1000⟩

/-- `YCGCO`: R = Y - Cg + Co, G = Y + Cg, B = Y - Cg - Co, with Cg the second and Co the third channel
(40_colorspace_descriptor.md R77). -/
def ycgcoDefault : YCgCo where
  r := ⟨1, -1, 1⟩
  g := ⟨1, 1, 0⟩
  b := ⟨1, -1, -1⟩

/-- All four depths (`DEPTHS_IN`, `DEPTHS_OUT`, 44_converter_commands.md R121). -/
def depthsDefault : List BitDepth := [.d8, .d10, .d12, .d16]

/-- The configuration the machine runs with: every parameter at the value 00_scope.md R4 gives it (log entry 1). -/
def cfg : Config where
  ktab := ktabDefault
  ycgco := ycgcoDefault
  depthsIn := depthsDefault
  depthsOut := depthsDefault
  sorPolicy := .fail

end Sys2Proof.Machine
end

