-- ==== Sys2Proof/Machine/Operands.lean ====
section
/-! DEFINITION. The operand fields as the commands read them: codes of colour spaces, ranges and depths, the fields of `P`,
and the parameter and sample checks (30_encoding.md R47 to R51; 10_state.md R21; 44_converter_commands.md R120, R121). -/

namespace Sys2Proof.Machine

/-- The colour space a 3-bit code names; code 7 is reserved (30_encoding.md R49). -/
def spaceOfCode (c : BitVec 3) : Option ColorSpace :=
  match c.toNat with
  | 0 => some .bt601
  | 1 => some .bt709
  | 2 => some .fcc
  | 3 => some .bt470bg
  | 4 => some .smpte240
  | 5 => some .ycgco
  | 6 => some .identity
  | _ => none

/-- The code of a colour space (30_encoding.md R49). -/
def spaceCode : ColorSpace → BitVec 3
  | .bt601 => 0
  | .bt709 => 1
  | .fcc => 2
  | .bt470bg => 3
  | .smpte240 => 4
  | .ycgco => 5
  | .identity => 6

/-- The range a bit names: 0 Studio, 1 Full (30_encoding.md R51). -/
def rangeOfCode (c : BitVec 1) : SignalRange := if c = 0 then .studio else .full

/-- The code of a range (30_encoding.md R51). -/
def rangeCode : SignalRange → BitVec 1
  | .studio => 0
  | .full => 1

/-- The depth a 5-bit field names, if it is one of the four (30_encoding.md R50). -/
def depthOfField (d : BitVec 5) : Option BitDepth :=
  match d.toNat with
  | 8 => some .d8
  | 10 => some .d10
  | 12 => some .d12
  | 16 => some .d16
  | _ => none

/-- The field of a depth: the number itself (30_encoding.md R50). -/
def depthField : BitDepth → BitVec 5
  | .d8 => 8
  | .d10 => 10
  | .d12 => 12
  | .d16 => 16

/-- A depth field's value, if it lies in the accepted set (`DEPTHS_IN` or `DEPTHS_OUT`, 44_converter_commands.md R121). -/
def acceptedDepth (accepted : List BitDepth) (d : BitVec 5) : Option BitDepth :=
  match depthOfField d with
  | some x => if x ∈ accepted then some x else none
  | none => none

/-- The four parameters of a conversion, all legal. -/
structure Params where
  space : ColorSpace
  range : SignalRange
  din : BitDepth
  dout : BitDepth
  deriving DecidableEq, Repr

/-- `check_params`: depths first, then the colour space (44_converter_commands.md R121). Where the spec answers OK this answers
the checked parameters. -/
def checkParams (c : Config) (space : BitVec 3) (range : BitVec 1) (din dout : BitVec 5) : Except Status Params :=
  match acceptedDepth c.depthsIn din, acceptedDepth c.depthsOut dout with
  | some di, some dd =>
    match spaceOfCode space with
    | some sp => .ok ⟨sp, rangeOfCode range, di, dd⟩
    | none => .error .reservedColorSpace
  | _, _ => .error .invalidBitDepth

/-- `P.space`, bits [13:11] (10_state.md R21). -/
def pSpace (p : BitVec 14) : BitVec 3 := p.extractLsb' 11 3
/-- `P.range`, bit [10]. -/
def pRange (p : BitVec 14) : BitVec 1 := p.extractLsb' 10 1
/-- `P.din`, bits [9:5]. -/
def pDin (p : BitVec 14) : BitVec 5 := p.extractLsb' 5 5
/-- `P.dout`, bits [4:0]. -/
def pDout (p : BitVec 14) : BitVec 5 := p.extractLsb' 0 5

/-- The parameters of the open batch as DATA reads them from `P`; an error when `P` holds none (10_state.md R21). -/
def paramsOfP (c : Config) (p : BitVec 14) : Except Status Params :=
  checkParams c (pSpace p) (pRange p) (pDin p) (pDout p)

/-- `max3` (00_scope.md R6). -/
def max3 (a b c : Nat) : Nat := max a (max b c)

end Sys2Proof.Machine
end

