-- ==== Sys2Proof/Machine/Normalizer.lean ====
section
/-! DEFINITION. `range_normalizer`: raw samples to exact unit values (41_range_normalizer.md), and the derived quantities of
00_scope.md R8. -/

namespace Sys2Proof.Machine

/-- The depth in bits (10_state.md R11). -/
def depthBits : BitDepth → Nat
  | .d8 => 8
  | .d10 => 10
  | .d12 => 12
  | .d16 => 16

/-- `s = 2^(din-8)` (00_scope.md R8). -/
def scaleOf (d : BitDepth) : Int := 2 ^ (depthBits d - 8)

/-- `Min` or `Mout`: `2^d - 1` (00_scope.md R8). -/
def fullScale (d : BitDepth) : Int := 2 ^ depthBits d - 1

/-- `mid = 2^(din-1)` (00_scope.md R8). -/
def midOf (d : BitDepth) : Int := 2 ^ (depthBits d - 1)

/-- The five integers of `norm`: luma `ny / dy`, chroma `ncb / dc` and `ncr / dc` (41_range_normalizer.md R85). -/
structure UnitYCC where
  ny : Int
  dy : Int
  ncb : Int
  ncr : Int
  dc : Int
  deriving DecidableEq, Repr

/-- The spec's `norm(y, cb, cr, range, din)` (41_range_normalizer.md R85): exact, and neither clamped nor rounded (R90). -/
def normYCC (y cb cr : Int) (range : SignalRange) (din : BitDepth) : UnitYCC :=
  match range with
  | .studio =>
    { ny := y - 16 * scaleOf din, dy := 219 * scaleOf din
      ncb := cb - midOf din, ncr := cr - midOf din, dc := 224 * scaleOf din }
  | .full =>
    { ny := y, dy := fullScale din
      ncb := cb - midOf din, ncr := cr - midOf din, dc := fullScale din }

end Sys2Proof.Machine
end

