-- ==== Sys2Proof/Machine/MatrixEngine.lean ====
section
/-! DEFINITION. `colorspace_matrix_engine`: the descriptor (40_colorspace_descriptor.md) and the matrix converter
(42_colorspace_matrix_engine.md). -/

namespace Sys2Proof.Machine

/-- The three shapes a descriptor can have (40_colorspace_descriptor.md R70, R71). -/
inductive Descriptor
  | krKb (e : KrKb)
  | ycgcoMatrix (m : YCgCo)
  | identityMap
  deriving DecidableEq, Repr

/-- `desc(space)` (40_colorspace_descriptor.md R70, R72 to R78). -/
def desc (c : Config) : ColorSpace → Descriptor
  | .bt601 => .krKb c.ktab.bt601
  | .bt709 => .krKb c.ktab.bt709
  | .fcc => .krKb c.ktab.fcc
  | .bt470bg => .krKb c.ktab.bt470bg
  | .smpte240 => .krKb c.ktab.smpte240
  | .ycgco => .ycgcoMatrix c.ycgco
  | .identity => .identityMap

/-- A rational carried as numerator and positive denominator, never reduced (00_scope.md R6). -/
structure Ratio where
  num : Int
  den : Int
  deriving DecidableEq, Repr

/-- The unit values R, G, B (42_colorspace_matrix_engine.md R95). -/
structure UnitRgb where
  r : Ratio
  g : Ratio
  b : Ratio
  deriving DecidableEq, Repr

/-- `g = K - a - b`, so that Kg = g / K (40_colorspace_descriptor.md R70). -/
def kgNum (e : KrKb) : Int := e.k - e.a - e.b

/-- The Kr/Kb formula on integers (42_colorspace_matrix_engine.md R97). -/
def matrixKrKb (e : KrKb) (n : UnitYCC) : UnitRgb where
  r := ⟨n.ny * e.k * n.dc + 2 * (e.k - e.a) * n.ncr * n.dy, e.k * n.dy * n.dc⟩
  g := ⟨n.ny * e.k * kgNum e * n.dc - (2 * e.a * (e.k - e.a) * n.ncr + 2 * e.b * (e.k - e.b) * n.ncb) * n.dy,
        e.k * kgNum e * n.dy * n.dc⟩
  b := ⟨n.ny * e.k * n.dc + 2 * (e.k - e.b) * n.ncb * n.dy, e.k * n.dy * n.dc⟩

/-- One channel of a fixed matrix on integers, over the denominator `Dy * Dc`. -/
def matrixRow (m : MatrixRow) (n : UnitYCC) : Ratio :=
  ⟨m.luma * n.ny * n.dc + (m.second * n.ncb + m.third * n.ncr) * n.dy, n.dy * n.dc⟩

/-- The YCgCo matrix on integers (42_colorspace_matrix_engine.md R99). -/
def matrixYCgCo (m : YCgCo) (n : UnitYCC) : UnitRgb where
  r := matrixRow m.r n
  g := matrixRow m.g n
  b := matrixRow m.b n

/-- `identity(y, cb, cr, din)`: R takes the third sample, G the first, B the second, each over `Min`
(42_colorspace_matrix_engine.md R100). -/
def identityUnit (y cb cr : Int) (din : BitDepth) : UnitRgb where
  r := ⟨cr, fullScale din⟩
  g := ⟨y, fullScale din⟩
  b := ⟨cb, fullScale din⟩

end Sys2Proof.Machine
end

