-- ==== Sys2Proof/Machine/Scaler.lean ====
section
/-! DEFINITION. `bitdepth_scaler`: the one rounding and the one clamp (43_bitdepth_scaler.md). -/

namespace Sys2Proof.Machine

/-- `fdiv(N, D)`: floor division (00_scope.md R6). -/
def fdiv (n d : Int) : Int := Int.fdiv n d

/-- `clamp(v, lo, hi)` (00_scope.md R6). -/
def clampTo (v lo hi : Int) : Int :=
  if v < lo then lo else if v > hi then hi else v

/-- The rounded value before the clamp, `floor(N * Mout / D + 1/2)` (43_bitdepth_scaler.md R111, R112, R114). -/
def scalePre (q : Ratio) (dout : BitDepth) : Int :=
  fdiv (2 * q.num * fullScale dout + q.den) (2 * q.den)

/-- `scale(N, D, dout)` (43_bitdepth_scaler.md R114). -/
def scale (q : Ratio) (dout : BitDepth) : Int :=
  clampTo (scalePre q dout) 0 (fullScale dout)

end Sys2Proof.Machine
end

