-- ==== Sys2Proof/Machine/Pipeline.lean ====
section
/-! DEFINITION. The conversion pipeline `conv` (44_converter_commands.md R120) and the sample-range policy. -/

namespace Sys2Proof.Machine

/-- The unit values that go on to the scaler: normalizer then matrix, or the Identity bypass of both
(44_converter_commands.md R120; 41_range_normalizer.md R91). -/
def unitRgb (c : Config) (space : ColorSpace) (range : SignalRange) (din : BitDepth) (y cb cr : Int) : UnitRgb :=
  match desc c space with
  | .krKb e => matrixKrKb e (normYCC y cb cr range din)
  | .ycgcoMatrix m => matrixYCgCo m (normYCC y cb cr range din)
  | .identityMap => identityUnit y cb cr din

/-- The scaler applied to the three channels (43_bitdepth_scaler.md R110). -/
def scaleRgb (u : UnitRgb) (dout : BitDepth) : Rgb :=
  ⟨(scale u.r dout).toNat, (scale u.g dout).toNat, (scale u.b dout).toNat⟩

/-- What `conv` returns: a triple or SampleOutOfRange (44_converter_commands.md R120). -/
inductive Converted
  | rgb (t : Rgb)
  | sampleOutOfRange
  deriving DecidableEq, Repr

/-- `conv(y, cb, cr, space, range, din, dout)` (44_converter_commands.md R120). -/
def conv (c : Config) (q : Params) (y cb cr : Nat) : Converted :=
  if max3 y cb cr > 2 ^ depthBits q.din - 1 then .sampleOutOfRange
  else .rgb (scaleRgb (unitRgb c q.space q.range q.din y cb cr) q.dout)

/-- `conv` as CVT and DATA use it: the status and the triple of the response. Under `SOR_POLICY = fail` an out-of-range sample
is SampleOutOfRange with no pixel (60_exceptions.md R143); the other policies are not specified and are refused
(93_implementation_defined.md U1). -/
def convStatus (c : Config) (q : Params) (y cb cr : Nat) : Except Refusal (Status × Rgb) :=
  match conv c q y cb cr with
  | .rgb t => .ok (.ok, t)
  | .sampleOutOfRange =>
    match c.sorPolicy with
    | .fail => .ok (.sampleOutOfRange, noRgb)
    | .mask => .error .sorPolicyUnspecified
    | .clamp => .error .sorPolicyUnspecified

end Sys2Proof.Machine
end

