-- ==== Sys2Proof/Machine/Batch.lean ====
section
/-! DEFINITION. The batch commands PLANE and DATA (44_converter_commands.md R124 to R126). -/

namespace Sys2Proof.Machine

/-- PLANE: open a batch (44_converter_commands.md R124), answer an empty one (R125) or reject it; in BATCH mode it aborts the
open batch (R123). -/
def execPlane (lenY lenCb lenCr : Field16) (space : BitVec 3) (range : BitVec 1) (din dout : BitVec 5) (s : State) : Result :=
  match s.mode with
  | .batch => .next (abortBatch 2 s)
  | .idle =>
    match checkParams cfg space range din dout with
    | .error e => .next (failCommand e 2 s)
    | .ok _ =>
      if ¬ (lenY = lenCb ∧ lenCb = lenCr) then .next (failCommand .planeLengthMismatch 2 s)
      else if lenY = 0 then .next (respond ⟨.ok, 2, true, false, noRgb⟩ s)
      else .next (openBatch (packParams space range din dout) lenY s)

/-- DATA: one position of the open batch (44_converter_commands.md R126); in IDLE mode it is a SequenceError (R123). The form
check on the reserved bits comes before the conversion (60_exceptions.md R145 (b), R148). -/
def execData (y cb cr : Field16) (rsv : BitVec 14) (s : State) : Result :=
  match s.mode with
  | .idle => .next (failCommand .sequenceError 3 s)
  | .batch =>
    if rsv ≠ 0 then .next (countBeat .illegalCommand noRgb s)
    else
      match paramsOfP cfg s.p with
      | .error _ => .fault .illegalParameters
      | .ok q =>
        match convStatus cfg q y.toNat cb.toNat cr.toNat with
        | .error r => .refused r
        | .ok (st, t) => .next (countBeat st t s)

end Sys2Proof.Machine
end

