-- ==== Sys2Proof/Machine/Pixel.lean ====
section
/-! DEFINITION. The single-pixel command CVT (44_converter_commands.md R122). -/

namespace Sys2Proof.Machine

/-- CVT: convert one pixel (44_converter_commands.md R122); in BATCH mode it aborts the batch (R123). -/
def execCvt (y cb cr : Field16) (space : BitVec 3) (range : BitVec 1) (din dout : BitVec 5) (s : State) : Result :=
  match s.mode with
  | .batch => .next (abortBatch 1 s)
  | .idle =>
    match checkParams cfg space range din dout with
    | .error e => .next (failCommand e 1 s)
    | .ok q =>
      match convStatus cfg q y.toNat cb.toNat cr.toNat with
      | .error r => .refused r
      | .ok (st, t) => .next (respond ⟨st, 1, false, false, t⟩ s)

end Sys2Proof.Machine
end

