-- ==== Sys2Proof/Machine/Dispatch.lean ====
section
/-! DEFINITION. One arm per command (44_converter_commands.md R123). -/

namespace Sys2Proof.Machine

def exec (i : Instr) (s : State) : Host.Outcome State Fault Refusal :=
  match i with
  | .cvt y cb cr space range din dout => Sys2Proof.Machine.execCvt y cb cr space range din dout s
  | .plane lenY lenCb lenCr space range din dout => Sys2Proof.Machine.execPlane lenY lenCb lenCr space range din dout s
  | .data y cb cr rsv => Sys2Proof.Machine.execData y cb cr rsv s

end Sys2Proof.Machine
end

