-- ==== Sys2Proof/Machine/Illegal.lean ====
section
/-! DEFINITION. What the machine does with a word that is no command, `op = 0b00` (60_exceptions.md R145 (a), R146 (b)). -/

namespace Sys2Proof.Machine

/-- A word with `op = 0b00`: IllegalCommand in IDLE mode (60_exceptions.md R145 (a)), abort of the batch in BATCH mode
(R146 (b)). -/
def execIllegal (s : State) : Result :=
  match s.mode with
  | .batch => .next (abortBatch 0 s)
  | .idle => .next (failCommand .illegalCommand 0 s)

end Sys2Proof.Machine
end

