-- ==== Sys2Proof/Machine/Execute.lean ====
section
/-! DEFINITION. `execute(w)`: what one popped command word does, whether or not it is a command
(44_converter_commands.md R123). -/

namespace Sys2Proof.Machine

/-- `execute(w)` of 44_converter_commands.md R123, on the state from which the word has been popped. -/
def execute (w : Word) (s : State) : Result :=
  match decode w with
  | .ok i => exec i s
  | .error .illegalOp => execIllegal s

end Sys2Proof.Machine
end

