-- ==== Sys2Proof/Machine/Step.lean ====
section
/-! DEFINITION. One step: the body of the loop of 20_memory.md R35, or a wait (R38); and where a table word is placed. -/

namespace Sys2Proof.Machine

/-- One round of `forever { w <- CmdPop(); execute w }` (20_memory.md R35). While `CMD` is empty or `RSP` cannot take a word
the block waits: nothing changes (R38; log entry 5). -/
def step (s : State) : Host.Outcome State Fault Refusal :=
  match cmdPop s with
  | some (w, t) => execute w t
  | none => .next s

/-- The state in which the next step pops and runs the instruction `w`: the word stands at the head of `CMD` and `RSP` can take
its response. It stands for the host's push (log entry 5). -/
def State.withFetchWord (s : State) (nbits w : Nat) : State :=
  { s with cmd := BitVec.ofNat 64 (w % 2 ^ nbits) :: s.cmd, rspReady := true }

end Sys2Proof.Machine
end

