-- ==== Sys2Proof/Machine/Assembler.lean ====
section
/-! DEFINITION. The assembler syntax of 30_encoding.md R63: one line of text to at most one command word, with no check beyond
field width (log entry 8). -/

namespace Sys2Proof.Machine

/-- A space or a tab. -/
def isBlank (c : Char) : Bool := c == ' ' || c == '\t'

/-- A text without the blanks at its two ends. -/
def strip (l : List Char) : List Char := ((l.dropWhile isBlank).reverse.dropWhile isBlank).reverse

/-- The value of a digit in base 16; decimal digits are those below 10. -/
def digitValue (c : Char) : Option Nat :=
  if '0'.toNat ≤ c.toNat ∧ c.toNat ≤ '9'.toNat then some (c.toNat - '0'.toNat)
  else if 'a'.toNat ≤ c.toNat ∧ c.toNat ≤ 'f'.toNat then some (c.toNat - 'a'.toNat + 10)
  else if 'A'.toNat ≤ c.toNat ∧ c.toNat ≤ 'F'.toNat then some (c.toNat - 'A'.toNat + 10)
  else none

/-- The number a run of digits continues, most significant digit first. -/
def digits (base acc : Nat) : List Char → Option Nat
  | [] => some acc
  | c :: cs =>
    match digitValue c with
    | some d => if d < base then digits base (acc * base + d) cs else none
    | none => none

/-- A decimal or `0x` hexadecimal number. -/
def number : List Char → Option Nat
  | [] => none
  | ['0', 'x'] => none
  | '0' :: 'x' :: c :: cs => digits 16 0 (c :: cs)
  | c :: cs => digits 10 0 (c :: cs)

/-- A number that fits a field of `n` bits, decimal or `0x` hexadecimal. That every numeric operand may be hexadecimal is the
model's choice: 30_encoding.md R63 gives the form for `y`, `cb`, `cr` and `len_*` and says only `number` for `space`, `range`,
`in_depth` and `out_depth` (DESIGN CHOICE; log entry 8). -/
def numberField (n : Nat) (l : List Char) : Option (BitVec n) :=
  match number l with
  | some v => if v < 2 ^ n then some (BitVec.ofNat n v) else none
  | none => none

/-- The names of the colour spaces (30_encoding.md R63). -/
def spaceNames : List (String × ColorSpace) :=
  [("BT601", .bt601), ("BT709", .bt709), ("FCC", .fcc), ("BT470BG", .bt470bg), ("SMPTE240", .smpte240), ("YCgCo", .ycgco),
    ("Identity", .identity)]

/-- The names of the ranges (30_encoding.md R63). -/
def rangeNames : List (String × SignalRange) := [("Studio", .studio), ("Full", .full)]

/-- A `space` operand: a name, or a number from 0 to 7. -/
def spaceOperand (l : List Char) : Option (BitVec 3) :=
  match spaceNames.find? (fun x => x.1.toList == l) with
  | some x => some (spaceCode x.2)
  | none => numberField 3 l

/-- A `range` operand: a name, or 0 or 1. -/
def rangeOperand (l : List Char) : Option (BitVec 1) :=
  match rangeNames.find? (fun x => x.1.toList == l) with
  | some x => some (rangeCode x.2)
  | none => numberField 1 l

/-- The command a mnemonic and its operands, in the order of the source's signatures, name. -/
def assembleCommand (mnemonic : List Char) (ops : List (List Char)) : Option Instr :=
  match ops with
  | [y, cb, cr] =>
    if mnemonic = "DATA".toList then
      return .data (← numberField 16 y) (← numberField 16 cb) (← numberField 16 cr) 0
    else none
  | [a, b, c, sp, rg, i, o] =>
    if mnemonic = "CVT".toList then
      return .cvt (← numberField 16 a) (← numberField 16 b) (← numberField 16 c) (← spaceOperand sp) (← rangeOperand rg)
        (← numberField 5 i) (← numberField 5 o)
    else if mnemonic = "PLANE".toList then
      return .plane (← numberField 16 a) (← numberField 16 b) (← numberField 16 c) (← spaceOperand sp) (← rangeOperand rg)
        (← numberField 5 i) (← numberField 5 o)
    else none
  | _ => none

/-- The raw word after `.word`, written in hexadecimal. -/
def rawWord : List Char → Option Word
  | '0' :: 'x' :: cs => numberField 64 ('0' :: 'x' :: cs)
  | _ => none

/-- One line of assembler text: no word for a blank or comment line, else the word of its command or of its `.word`; `none` for a
line that is not of the syntax (30_encoding.md R63). -/
def assembleLine (text : String) : Option (List Word) :=
  let line := strip (text.toList.takeWhile (· != ';'))
  let mnemonic := line.takeWhile (fun c => !isBlank c)
  let rest := strip (line.dropWhile (fun c => !isBlank c))
  if line = [] then some []
  else if mnemonic = ".word".toList then (rawWord rest).map (fun w => [w])
  else (assembleCommand mnemonic ((rest.splitOn ',').map strip)).map (fun i => [encode i])

end Sys2Proof.Machine
end

