-- ==== Sys2Proof/Machine/Run.lean ====
section
/-! DEFINITION. Runs of the machine: the sequential loop of 20_memory.md R35 over a list of words, and interleavings of block
steps with host actions (R36, R38; 70_reset_and_hazards.md R173). -/

namespace Sys2Proof.Machine

/-- The words executed one after the other, each in the state the one before left, as in the loop of 20_memory.md R35; `none`
if one of them stops the machine. -/
def executeAll : List Word → State → Option State
  | [], s => some s
  | w :: ws, s =>
    match execute w s with
    | .next t => executeAll ws t
    | .fault _ => none
    | .refused _ => none

/-- One event of a run: a step of the block or an action of the host. -/
inductive Event
  | block
  | host (a : HostAct)
  deriving DecidableEq, Repr

/-- The words that moved on the two channels in a run, each list in order. -/
structure Exchange where
  /-- The command words `CMD` accepted. -/
  accepted : List Word
  /-- The response words the host took. -/
  taken : List Word
  deriving DecidableEq, Repr

/-- The words that move on the channels when the host acts: an offered command word if `CMD` accepts it, the oldest response
word on a take. -/
def movedBy (a : HostAct) (s : State) : Exchange :=
  match a with
  | .push w => ⟨if cmdReady s then [w] else [], []⟩
  | .take => ⟨[], s.rsp.head?.toList⟩
  | .setReady _ => ⟨[], []⟩
  | .reset => ⟨[], []⟩

/-- A run under any interleaving: the words that moved, and the state after it. -/
def runEvents : List Event → State → Option (Exchange × State)
  | [], s => some (⟨[], []⟩, s)
  | .block :: es, s =>
    match step s with
    | .next t => runEvents es t
    | .fault _ => none
    | .refused _ => none
  | .host a :: es, s =>
    match runEvents es (hostAct a s) with
    | some (x, t) => some (⟨(movedBy a s).accepted ++ x.accepted, (movedBy a s).taken ++ x.taken⟩, t)
    | none => none

end Sys2Proof.Machine
end

