-- ==== Sys2Proof/Machine/HostCalls.lean ====
section
/-! DEFINITION. The source's two operations as the host gets them from the block: `convert_pixel` and `convert_plane`
(30_encoding.md R64, R65; 44_converter_commands.md R129, R130; log entry 7). -/

namespace Sys2Proof.Machine

/-- The four parameter fields of a call, as a command word carries them (30_encoding.md R45). -/
structure CallParams where
  space : BitVec 3
  range : BitVec 1
  din : BitVec 5
  dout : BitVec 5
  deriving DecidableEq, Repr

/-- One position of the three input planes. -/
structure Position where
  y : Field16
  cb : Field16
  cr : Field16
  deriving DecidableEq, Repr

/-- How a call ends for the host. -/
inductive CallResult (α : Type)
  /-- The call succeeded with this value. -/
  | value (v : α)
  /-- The one response of the call, or the PLANE response, had this nonzero status. -/
  | failed (status : BitVec 4)
  /-- The closing response of a batch had `berr = 1`; the planes stored so far are discarded. -/
  | failedBatch
  deriving DecidableEq, Repr

/-- What a call leaves the host with: how it ended, and the command words it sent to the block, in order. -/
structure Call (α : Type) where
  result : CallResult α
  sent : List Word
  deriving DecidableEq, Repr

/-- The word `convert_pixel` expands to (30_encoding.md R64). -/
def pixelCommand (c : CallParams) (x : Position) : Word :=
  encode (.cvt x.y x.cb x.cr c.space c.range c.din c.dout)

/-- The header word `convert_plane` expands to (30_encoding.md R65). -/
def planeCommand (c : CallParams) (ny ncb ncr : Nat) : Word :=
  encode (.plane (BitVec.ofNat 16 ny) (BitVec.ofNat 16 ncb) (BitVec.ofNat 16 ncr) c.space c.range c.din c.dout)

/-- The beat word of one position (30_encoding.md R65). -/
def dataCommand (x : Position) : Word := encode (.data x.y x.cb x.cr 0)

/-- The triple a response word carries. -/
def rspRgb (w : Word) : Rgb := ⟨(rspR w).toNat, (rspG w).toNat, (rspB w).toNat⟩

/-- The host sends one word and waits for its response (20_memory.md R39): push, one step of the block, take. For a block with
no outstanding words. -/
def ask (w : Word) (s : State) : Option (Word × State) :=
  match step (hostAct (.push w) s) with
  | .next t =>
    match t.rsp with
    | r :: _ => some (r, hostAct .take t)
    | [] => none
  | .fault _ => none
  | .refused _ => none

/-- The host sends words one after the other and collects their responses. -/
def askAll : List Word → State → Option (List Word × State)
  | [], s => some ([], s)
  | w :: ws, s =>
    match ask w s with
    | some (r, t) =>
      match askAll ws t with
      | some (rs, u) => some (r :: rs, u)
      | none => none
    | none => none

/-- `convert_pixel` (30_encoding.md R64). -/
def convertPixel (c : CallParams) (x : Position) (s : State) : Option (Call Rgb × State) :=
  match ask (pixelCommand c x) s with
  | some (r, t) => some (⟨if rspStatus r = 0 then .value (rspRgb r) else .failed (rspStatus r), [pixelCommand c x]⟩, t)
  | none => none

/-- The positions of three planes, index by index. -/
def positions : List Field16 → List Field16 → List Field16 → List Position
  | y :: ys, cb :: cbs, cr :: crs => ⟨y, cb, cr⟩ :: positions ys cbs crs
  | [], _, _ => []
  | _ :: _, [], _ => []
  | _ :: _, _ :: _, [] => []

/-- What a call on an open batch gives: the triples in index order if the response with `last = 1` has `berr = 0`
(44_converter_commands.md R129). -/
def batchResult (rs : List Word) : CallResult (List Rgb) :=
  if rs.any (fun r => rspLast r == 1 && rspBerr r == 1) then .failedBatch else .value (rs.map rspRgb)

/-- `convert_plane` on planes of at most 65535 positions (30_encoding.md R65; 44_converter_commands.md R129). After a rejected
PLANE no DATA is sent. -/
def convertPlane (c : CallParams) (ys cbs crs : List Field16) (s : State) : Option (Call (List Rgb) × State) :=
  let header := planeCommand c ys.length cbs.length crs.length
  let beats := (positions ys cbs crs).map dataCommand
  match ask header s with
  | none => none
  | some (r, t) =>
    if rspStatus r ≠ 0 then some (⟨.failed (rspStatus r), [header]⟩, t)
    else
      match askAll beats t with
      | some (rs, u) => some (⟨batchResult rs, header :: beats⟩, u)
      | none => none

/-- The planes of a long call cut into consecutive pieces of at most `n` positions (44_converter_commands.md R130). The fuel
bounds the number of pieces. -/
def pieces (n : Nat) : Nat → List Position → List (List Position)
  | 0, _ => []
  | _ + 1, [] => []
  | fuel + 1, x :: xs => (x :: xs).take n :: pieces n fuel ((x :: xs).drop n)

/-- The pieces converted one batch each, in order, the first failure ending the call. -/
def convertPieces (c : CallParams) : List (List Position) → State → Option (Call (List Rgb) × State)
  | [], s => some (⟨.value [], []⟩, s)
  | q :: qs, s =>
    match convertPlane c (q.map Position.y) (q.map Position.cb) (q.map Position.cr) s with
    | some (⟨.value v, sent⟩, t) =>
      match convertPieces c qs t with
      | some (⟨.value vs, more⟩, u) => some (⟨.value (v ++ vs), sent ++ more⟩, u)
      | some (⟨.failed st, more⟩, u) => some (⟨.failed st, sent ++ more⟩, u)
      | some (⟨.failedBatch, more⟩, u) => some (⟨.failedBatch, sent ++ more⟩, u)
      | none => none
    | some (⟨.failed st, sent⟩, t) => some (⟨.failed st, sent⟩, t)
    | some (⟨.failedBatch, sent⟩, t) => some (⟨.failedBatch, sent⟩, t)
    | none => none

/-- `convert_plane` on planes of any length: the host compares the lengths before it starts, then sends batches of at most 65535
positions (44_converter_commands.md R130; 70_reset_and_hazards.md R174). A call that fits one batch is that batch. That a longer
one is cut into pieces of exactly 65535 positions, only the last one shorter, is the model's choice: R130 says `at most 65535`
(DESIGN CHOICE; log entry 7). -/
def convertLongPlane (c : CallParams) (ys cbs crs : List Field16) (s : State) : Option (Call (List Rgb) × State) :=
  if ys.length ≤ 65535 ∧ cbs.length ≤ 65535 ∧ crs.length ≤ 65535 then convertPlane c ys cbs crs s
  else if ys.length = cbs.length ∧ cbs.length = crs.length then
    convertPieces c (pieces 65535 ys.length (positions ys cbs crs)) s
  else some (⟨.failed (statusCode .planeLengthMismatch), []⟩, s)

end Sys2Proof.Machine
end

