-- ==== Sys2Proof/Safety.lean ====
section
/-! DEFINITION. What counts as a good state and a good response, and the exact rational reading of a conversion, in the terms the
statements use. Nothing of the machine depends on this file. -/

namespace Sys2Proof.Machine

/-- A depth field holds one of the four depths (30_encoding.md R50). -/
abbrev LegalDepth (d : Nat) : Prop := d = 8 ∨ d = 10 ∨ d = 12 ∨ d = 16

/-- A parameter register with four legal fields (10_state.md R21). -/
abbrev LegalP (p : BitVec 14) : Prop :=
  (pSpace p).toNat ≤ 6 ∧ LegalDepth (pDin p).toNat ∧ LegalDepth (pDout p).toNat

/-- The invariants of 10_state.md R20, R21, R22: in IDLE nothing of a batch is left in `REM` or `BERR`; in BATCH at least one beat
is expected and `P` holds legal parameters. -/
abbrev BatchInv (s : State) : Prop :=
  (s.mode = .idle → s.rem = 0 ∧ s.berr = false) ∧ (s.mode = .batch → s.rem ≠ 0 ∧ LegalP s.p)

/-- A response word that keeps to 30_encoding.md R57, R59, R60: reserved bits zero, no status above 6, `berr` only beside `last`,
and no pixel beside an error or in answer to a PLANE. -/
abbrev GoodResponse (w : Word) : Prop :=
  rspReserved w = 0 ∧ (rspStatus w).toNat ≤ 6 ∧ (rspBerr w = 1 → rspLast w = 1) ∧
    (rspStatus w ≠ 0 ∨ rspOp w = 2 → rspR w = 0 ∧ rspG w = 0 ∧ rspB w = 0)

/-- Every response word waiting on `RSP` is good. -/
abbrev ResponsesGood (s : State) : Prop := ∀ w ∈ s.rsp, GoodResponse w

/-- A block between calls (44_converter_commands.md R131): idle, no outstanding words, and the host ready for a response. -/
abbrev BetweenCalls (s : State) : Prop :=
  BatchInv s ∧ s.mode = .idle ∧ s.cmd = [] ∧ s.rsp = [] ∧ s.rspReady = true

/-- A nonempty text without a blank, a comma or a semicolon: a mnemonic or an operand as 30_encoding.md R63 writes them. -/
abbrev PlainText (l : List Char) : Prop := l ≠ [] ∧ ∀ ch ∈ l, ch ≠ ' ' ∧ ch ≠ '\t' ∧ ch ≠ ',' ∧ ch ≠ ';'

/-- What may end a line of assembler text: nothing, or a comment. -/
abbrev LineEnd (l : List Char) : Prop := l = [] ∨ l.head? = some ';'

/-- The machine goes on: the outcome is a next state. -/
abbrev Completes (o : Result) : Prop := ∃ t, o = .next t

/-- The fields of a command word as numbers, `w[hi:lo] = floor(w / 2^lo) mod 2^(hi-lo+1)` (00_scope.md R5): the statements read a
word this way, independently of the decoder. -/
def wordBits (w : Word) (hi lo : Nat) : Nat := w.toNat / 2 ^ lo % 2 ^ (hi - lo + 1)

/-- `respond`'s number of 30_encoding.md R56: the response word of seven fields, independently of `responseWord`. -/
def rsp64 (status op last berr r g b : Nat) : Word :=
  BitVec.ofNat 64 (status * 2 ^ 60 + op * 2 ^ 58 + last * 2 ^ 57 + berr * 2 ^ 56 + r * 2 ^ 32 + g * 2 ^ 16 + b)

/-- The luma unit value (41_range_normalizer.md R86, R88) as a rational. -/
def lumaQ (range : SignalRange) (din : BitDepth) (y : ℚ) : ℚ :=
  match range with
  | .studio => (y - 16 * 2 ^ (depthBits din - 8)) / (219 * 2 ^ (depthBits din - 8))
  | .full => y / (2 ^ depthBits din - 1)

/-- A chroma unit value (41_range_normalizer.md R87, R89) as a rational. -/
def chromaQ (range : SignalRange) (din : BitDepth) (c : ℚ) : ℚ :=
  match range with
  | .studio => (c - 128 * 2 ^ (depthBits din - 8)) / (224 * 2 ^ (depthBits din - 8))
  | .full => (c - 2 ^ (depthBits din - 1)) / (2 ^ depthBits din - 1)

/-- The source's formula for a Kr/Kb family (42_colorspace_matrix_engine.md R96), with Kg = 1 - Kr - Kb. -/
def krKbQ (kr kb y cb cr : ℚ) : ℚ × ℚ × ℚ :=
  (y + 2 * (1 - kr) * cr, y - (2 * kr * (1 - kr) * cr + 2 * kb * (1 - kb) * cb) / (1 - kr - kb), y + 2 * (1 - kb) * cb)

/-- The unit values (R, G, B) of a pixel as rationals, per colour space: 40_colorspace_descriptor.md R72 to R78 in the formulas of
42_colorspace_matrix_engine.md R96, R99, R100. -/
def unitQ (space : ColorSpace) (range : SignalRange) (din : BitDepth) (y cb cr : ℚ) : ℚ × ℚ × ℚ :=
  let yn := lumaQ range din y
  let cbn := chromaQ range din cb
  let crn := chromaQ range din cr
  match space with
  | .bt601 => krKbQ 0.299 0.114 yn cbn crn
  | .bt709 => krKbQ 0.2126 0.0722 yn cbn crn
  | .fcc => krKbQ 0.30 0.11 yn cbn crn
  | .bt470bg => krKbQ 0.299 0.114 yn cbn crn
  | .smpte240 => krKbQ 0.212 0.087 yn cbn crn
  | .ycgco => (yn - cbn + crn, yn + cbn, yn - cbn - crn)
  | .identity => (cr / (2 ^ depthBits din - 1), y / (2 ^ depthBits din - 1), cb / (2 ^ depthBits din - 1))

/-- Multiply by `Mout`, round half up, clamp to `[0, Mout]` (43_bitdepth_scaler.md R111 to R113) on rationals. -/
def sampleQ (dout : BitDepth) (u : ℚ) : ℤ :=
  max 0 (min (2 ^ depthBits dout - 1) ⌊u * (2 ^ depthBits dout - 1) + 1 / 2⌋)

/-- The pixel the spec's formulas give, on rationals from end to end (44_converter_commands.md R120). -/
def pixelQ (q : Params) (y cb cr : Nat) : Rgb :=
  let u := unitQ q.space q.range q.din y cb cr
  ⟨(sampleQ q.dout u.1).toNat, (sampleQ q.dout u.2.1).toNat, (sampleQ q.dout u.2.2).toNat⟩

end Sys2Proof.Machine
end

