-- ==== Sys2Proof/Certificates/Slice0/Obligations.lean ====
section
/-! DEFINITION. The statements about the model, for the provers. Rules R<n> are those of spec/. -/

open Sys2Proof Sys2Proof.Machine

/-! ### Encoding -/

/-- `enc` as a number, its inverse on commands and on words, the words that no command has, and the worked example: R66, which the
spec marks as derived from R45. -/
def Obligations.EncodingAndDecodingAreInverse : Prop :=
  (∀ (y cb cr : Field16) (space : BitVec 3) (range : BitVec 1) (din dout : BitVec 5),
      (encode (.cvt y cb cr space range din dout)).toNat =
        1 * 2 ^ 62 + y.toNat * 2 ^ 46 + cb.toNat * 2 ^ 30 + cr.toNat * 2 ^ 14 + space.toNat * 2 ^ 11 + range.toNat * 2 ^ 10
          + din.toNat * 2 ^ 5 + dout.toNat) ∧
    (∀ (ly lcb lcr : Field16) (space : BitVec 3) (range : BitVec 1) (din dout : BitVec 5),
      (encode (.plane ly lcb lcr space range din dout)).toNat =
        2 * 2 ^ 62 + ly.toNat * 2 ^ 46 + lcb.toNat * 2 ^ 30 + lcr.toNat * 2 ^ 14 + space.toNat * 2 ^ 11 + range.toNat * 2 ^ 10
          + din.toNat * 2 ^ 5 + dout.toNat) ∧
    (∀ y cb cr : Field16,
      (encode (.data y cb cr 0)).toNat = 3 * 2 ^ 62 + y.toNat * 2 ^ 46 + cb.toNat * 2 ^ 30 + cr.toNat * 2 ^ 14) ∧
    (∀ i : Instr, decode (encode i) = .ok i) ∧
    (∀ (w : Word) (i : Instr), decode w = .ok i → encode i = w) ∧
    (∀ w : Word, decode w = .error .illegalOp ↔ ∀ i : Instr, encode i ≠ w) ∧
    encode (.cvt 235 128 128 (spaceCode .bt601) (rangeCode .studio) 8 8) = 0x403AC02000200108

/-- R54: the decoder answers every word, by the word's `op` bits alone, with the fields of R45; it refuses `op = 0b00` only. -/
def Obligations.DecodeReadsTheFields : Prop :=
  ∀ w : Word,
    (wordBits w 63 62 = 0 → decode w = .error .illegalOp) ∧
    (wordBits w 63 62 = 1 →
      decode w = .ok (.cvt (BitVec.ofNat 16 (wordBits w 61 46)) (BitVec.ofNat 16 (wordBits w 45 30))
        (BitVec.ofNat 16 (wordBits w 29 14)) (BitVec.ofNat 3 (wordBits w 13 11)) (BitVec.ofNat 1 (wordBits w 10 10))
        (BitVec.ofNat 5 (wordBits w 9 5)) (BitVec.ofNat 5 (wordBits w 4 0)))) ∧
    (wordBits w 63 62 = 2 →
      decode w = .ok (.plane (BitVec.ofNat 16 (wordBits w 61 46)) (BitVec.ofNat 16 (wordBits w 45 30))
        (BitVec.ofNat 16 (wordBits w 29 14)) (BitVec.ofNat 3 (wordBits w 13 11)) (BitVec.ofNat 1 (wordBits w 10 10))
        (BitVec.ofNat 5 (wordBits w 9 5)) (BitVec.ofNat 5 (wordBits w 4 0)))) ∧
    (wordBits w 63 62 = 3 →
      decode w = .ok (.data (BitVec.ofNat 16 (wordBits w 61 46)) (BitVec.ofNat 16 (wordBits w 45 30))
        (BitVec.ofNat 16 (wordBits w 29 14)) (BitVec.ofNat 14 (wordBits w 13 0))))

/-- The opcode map as match and mask (30_encoding.md section 1, R55's masks): a word decodes to a command of a row exactly when
the row's dispatch mask matches it, and to a well-formed DATA exactly when the row's own mask matches it. -/
def Obligations.OpcodeMasksSelectTheCommand : Prop :=
  ∀ w : Word,
    (w &&& 0xC000000000000000 = 0x4000000000000000 ↔
      ∃ y cb cr space range din dout, decode w = .ok (.cvt y cb cr space range din dout)) ∧
    (w &&& 0xC000000000000000 = 0x8000000000000000 ↔
      ∃ ly lcb lcr space range din dout, decode w = .ok (.plane ly lcb lcr space range din dout)) ∧
    (w &&& 0xC000000000000000 = 0xC000000000000000 ↔ ∃ y cb cr rsv, decode w = .ok (.data y cb cr rsv)) ∧
    (w &&& 0xC000000000003FFF = 0xC000000000000000 ↔
      ∃ y cb cr rsv, decode w = .ok (.data y cb cr rsv) ∧ (Instr.data y cb cr rsv).wellFormed = true)

/-- Words of 95_test_vectors.md section 2.1 decode to the commands beside them. -/
def Obligations.TableWordsDecode : Prop :=
  decode 0x407D006400AF0D48 = .ok (.cvt 500 400 700 (spaceCode .bt709) (rangeCode .full) 10 8) ∧
    decode 0xBFFFFFFFFFFFE990 = .ok (.plane 65535 65535 65535 (spaceCode .ycgco) (rangeCode .studio) 12 16) ∧
    decode 0xFFFFC00000004000 = .ok (.data 65535 0 1 0) ∧
    decode 0xFFFFFFFFFFFFFFFF = .ok (.data 65535 65535 65535 0x3FFF) ∧
    decode 0x3FFFFFFFFFFFFFFF = .error .illegalOp

/-- R56's layout: `respond` pushes the word that is the sum of the seven shifted fields, and changes nothing else. What `op`,
`last` and `berr` stand for is `ClosingBitsOfAResponse`. -/
def Obligations.ResponseWordLayout : Prop :=
  ∀ (x : Response) (s : State), x.rgb.r < 2 ^ 16 → x.rgb.g < 2 ^ 16 → x.rgb.b < 2 ^ 16 →
    respond x s =
        { s with rsp := s.rsp ++ [rsp64 (statusCode x.status).toNat x.op.toNat x.last.toNat x.berr.toNat x.rgb.r x.rgb.g x.rgb.b] } ∧
      (let w := responseWord x
       wordBits w 63 60 = (statusCode x.status).toNat ∧ wordBits w 59 58 = x.op.toNat ∧ wordBits w 57 57 = x.last.toNat ∧
        wordBits w 56 56 = x.berr.toNat ∧ wordBits w 55 48 = 0 ∧ wordBits w 47 32 = x.rgb.r ∧ wordBits w 31 16 = x.rgb.g ∧
        wordBits w 15 0 = x.rgb.b)

/-- The assembler of 30_encoding.md section 5 encodes what was written (R63; log entry 8 names its lexical details). With each operand
text read as a value, DATA, CVT and PLANE have exactly those operands in their written order, and no other mnemonic and no other
number of operands assembles. The names of R63 read as their codes. The command is well-formed and its word decodes to it. A line of
the syntax, a mnemonic, a blank, operands between commas, and perhaps a comment, gives the encoding of that command, and a `.word`
line gives its raw word. -/
def Obligations.AssemblerEmitsWellFormedCommands : Prop :=
  (∀ (y cb cr : List Char) (i : Instr),
      assembleCommand "DATA".toList [y, cb, cr] = some i ↔
        ∃ vy vcb vcr, numberField 16 y = some vy ∧ numberField 16 cb = some vcb ∧ numberField 16 cr = some vcr ∧
          i = .data vy vcb vcr 0) ∧
    (∀ (y cb cr sp rg di dd : List Char) (i : Instr),
      assembleCommand "CVT".toList [y, cb, cr, sp, rg, di, dd] = some i ↔
        ∃ vy vcb vcr vsp vrg vdi vdd, numberField 16 y = some vy ∧ numberField 16 cb = some vcb ∧ numberField 16 cr = some vcr ∧
          spaceOperand sp = some vsp ∧ rangeOperand rg = some vrg ∧ numberField 5 di = some vdi ∧ numberField 5 dd = some vdd ∧
          i = .cvt vy vcb vcr vsp vrg vdi vdd) ∧
    (∀ (ly lcb lcr sp rg di dd : List Char) (i : Instr),
      assembleCommand "PLANE".toList [ly, lcb, lcr, sp, rg, di, dd] = some i ↔
        ∃ vy vcb vcr vsp vrg vdi vdd, numberField 16 ly = some vy ∧ numberField 16 lcb = some vcb ∧ numberField 16 lcr = some vcr ∧
          spaceOperand sp = some vsp ∧ rangeOperand rg = some vrg ∧ numberField 5 di = some vdi ∧ numberField 5 dd = some vdd ∧
          i = .plane vy vcb vcr vsp vrg vdi vdd) ∧
    (∀ (mnemonic : List Char) (ops : List (List Char)) (i : Instr), assembleCommand mnemonic ops = some i →
      (mnemonic = "DATA".toList ∧ ops.length = 3 ∨ (mnemonic = "CVT".toList ∨ mnemonic = "PLANE".toList) ∧ ops.length = 7) ∧
        i.wellFormed = true ∧ decode (encode i) = .ok i) ∧
    (spaceOperand "BT601".toList = some 0 ∧ spaceOperand "BT709".toList = some 1 ∧ spaceOperand "FCC".toList = some 2 ∧
      spaceOperand "BT470BG".toList = some 3 ∧ spaceOperand "SMPTE240".toList = some 4 ∧ spaceOperand "YCgCo".toList = some 5 ∧
      spaceOperand "Identity".toList = some 6 ∧ rangeOperand "Studio".toList = some 0 ∧ rangeOperand "Full".toList = some 1) ∧
    (∀ (mnemonic op : List Char) (ops : List (List Char)) (ending : List Char), PlainText mnemonic → mnemonic ≠ ".word".toList →
      PlainText op → (∀ l ∈ ops, PlainText l) → LineEnd ending →
        assembleLine (String.ofList
            (mnemonic ++ ' ' :: [','].intercalate (op :: ops.map (fun l => ' ' :: l)) ++ ending)) =
          (assembleCommand mnemonic (op :: ops)).map (fun i => [encode i])) ∧
    (∀ (hex ending : List Char), PlainText hex → LineEnd ending →
      assembleLine (String.ofList (".word 0x".toList ++ hex ++ ending)) = (numberField 64 ("0x".toList ++ hex)).map (fun w => [w]))

/-! ### The step, waiting and reset -/

/-- When RSP can take a word and the oldest word of CMD decodes to a command, one step pops the word and is `exec` of the command.
-/
def Obligations.StepRunsTheDecodedCommand : Prop :=
  ∀ (s : State) (w : Word) (ws : List Word) (i : Instr), s.rspReady = true → s.cmd = w :: ws → decode w = .ok i →
    step s = exec i { s with cmd := ws }

/-- When the oldest word of CMD is no command, one step pops it and answers it: IllegalCommand in IDLE, an abort in BATCH. -/
def Obligations.StepAnswersAnIllegalWord : Prop :=
  ∀ (s : State) (w : Word) (ws : List Word), s.rspReady = true → s.cmd = w :: ws → decode w = .error .illegalOp →
    step s =
      match s.mode with
      | .idle => .next { s with cmd := ws, rsp := s.rsp ++ [0x5000000000000000] }
      | .batch => .next { s with cmd := ws, mode := .idle, rem := 0, berr := false, rsp := s.rsp ++ [0x6300000000000000] }

/-- While RSP cannot take a word, and while CMD is empty, a step changes nothing. That waiting is a step of its own is the model's
reading of 20_memory.md section 3 (log entry 5). -/
def Obligations.StepWaitsUnchanged : Prop :=
  (∀ s : State, s.rspReady = false → step s = .next s) ∧ (∀ s : State, s.cmd = [] → step s = .next s)

/-- R167: the reset state, and the same values reached from any state by the reset event. -/
def Obligations.ResetLeavesTheSpecsValues : Prop :=
  ∀ s : State,
    let t := hostAct .reset s
    t.mode = .idle ∧ t.rem = 0 ∧ t.berr = false ∧ t.p = 0 ∧ t.cmd = [] ∧ t.rsp = [] ∧
      State.reset.mode = .idle ∧ State.reset.rem = 0 ∧ State.reset.berr = false ∧ State.reset.p = 0 ∧
      State.reset.cmd = [] ∧ State.reset.rsp = []

/-- The state after reset meets both invariants. -/
def Obligations.ResetIsGood : Prop :=
  BatchInv State.reset ∧ ResponsesGood State.reset

/-- The batch invariants of 10_state.md section 3 (R20, R21, R22) are kept by every step from every state that has them. -/
def Obligations.StepKeepsTheBatchInvariant : Prop :=
  ∀ s t : State, BatchInv s → step s = .next t → BatchInv t

/-- No state with the invariant stops: every step from it answers a next state, whatever words wait on CMD. -/
def Obligations.GoodStatesNeverStop : Prop :=
  ∀ s : State, BatchInv s → Completes (step s)

/-- Every response the block pushes has zero reserved bits, a status of at most 6, `berr` only beside `last`, and no pixel beside
an error or in answer to a PLANE. -/
def Obligations.StepKeepsResponsesGood : Prop :=
  ∀ s t : State, ResponsesGood s → step s = .next t → ResponsesGood t

/-- Every action of the host keeps the invariants. -/
def Obligations.HostActionsKeepTheInvariants : Prop :=
  ∀ (a : HostAct) (s : State), BatchInv s → ResponsesGood s → BatchInv (hostAct a s) ∧ ResponsesGood (hostAct a s)

/-! ### What each command does -/

/-- R122: CVT in IDLE mode, whole: the check, the conversion, the one response, and no other change; Identity ignores the range, a
superwhite and a superblack luma saturate, and the worked example. -/
def Obligations.CvtInIdleMode : Prop :=
  (∀ (s : State) (y cb cr : Field16) (space : BitVec 3) (range : BitVec 1) (din dout : BitVec 5), s.mode = .idle →
    exec (.cvt y cb cr space range din dout) s =
      .next { s with
        rsp := s.rsp ++
          [match checkParams cfg space range din dout with
           | .error e => rsp64 (statusCode e).toNat 1 0 0 0 0 0
           | .ok q =>
             match conv cfg q y.toNat cb.toNat cr.toNat with
             | .sampleOutOfRange => rsp64 3 1 0 0 0 0 0
             | .rgb t => rsp64 0 1 0 0 t.r t.g t.b] }) ∧
    (∀ (s : State) (y cb cr : Field16) (range range' : BitVec 1) (din dout : BitVec 5),
      exec (.cvt y cb cr (spaceCode .identity) range din dout) s = exec (.cvt y cb cr (spaceCode .identity) range' din dout) s) ∧
    execute (encode (.cvt 255 128 128 (spaceCode .bt601) (rangeCode .studio) 8 16)) State.reset =
      .next { State.reset with rsp := [0x0400FFFFFFFFFFFF] } ∧
    execute (encode (.cvt 0 128 128 (spaceCode .bt601) (rangeCode .studio) 8 16)) State.reset =
      .next { State.reset with rsp := [0x0400000000000000] } ∧
    execute 0x403AC02000200108 State.reset = .next { State.reset with rsp := [0x040000FF00FF00FF] }

/-- R124 and R125: PLANE in IDLE mode, whole, with the worked examples. -/
def Obligations.PlaneInIdleMode : Prop :=
  (∀ (s : State) (ly lcb lcr : Field16) (space : BitVec 3) (range : BitVec 1) (din dout : BitVec 5), s.mode = .idle →
    exec (.plane ly lcb lcr space range din dout) s =
      match checkParams cfg space range din dout with
      | .error e => .next { s with rsp := s.rsp ++ [rsp64 (statusCode e).toNat 2 0 0 0 0 0] }
      | .ok _ =>
        if ¬ (ly = lcb ∧ lcb = lcr) then .next { s with rsp := s.rsp ++ [rsp64 2 2 0 0 0 0 0] }
        else if ly = 0 then .next { s with rsp := s.rsp ++ [rsp64 0 2 1 0 0 0 0] }
        else
          .next { s with
            p := BitVec.ofNat 14 (wordBits (encode (.plane ly lcb lcr space range din dout)) 13 0)
            rem := ly
            berr := false
            mode := .batch
            rsp := s.rsp ++ [rsp64 0 2 0 0 0 0 0] }) ∧
    execute 0x8000C000C000CD08 State.reset =
      .next { State.reset with mode := .batch, p := 0xD08, rem := 3, rsp := [0x0800000000000000] } ∧
    execute 0x800080008000C108 State.reset = .next { State.reset with rsp := [0x2800000000000000] } ∧
    execute 0x8000000000000108 State.reset = .next { State.reset with rsp := [0x0A00000000000000] }

/-- R126: DATA in BATCH mode, whole. In a state with the invariant `P` holds legal parameters `q`; the beat's status and triple
come from the reserved bits and from `conv`, and the beat is counted. Then the three beats of the worked example. -/
def Obligations.DataInBatchMode : Prop :=
  (∀ (s : State) (y cb cr : Field16) (rsv : BitVec 14), BatchInv s → s.mode = .batch →
    ∃ q, paramsOfP cfg s.p = .ok q ∧
      (let beat : Nat × Rgb :=
        if rsv ≠ 0 then (5, ⟨0, 0, 0⟩)
        else
          match conv cfg q y.toNat cb.toNat cr.toNat with
          | .sampleOutOfRange => (3, ⟨0, 0, 0⟩)
          | .rgb t => (0, t)
       let berr := if beat.1 ≠ 0 then true else s.berr
       exec (.data y cb cr rsv) s =
        if s.rem.toNat - 1 = 0 then
          .next { s with
            mode := .idle, rem := 0, berr := false
            rsp := s.rsp ++ [rsp64 beat.1 3 1 berr.toNat beat.2.r beat.2.g beat.2.b] }
        else
          .next { s with
            rem := BitVec.ofNat 16 (s.rem.toNat - 1), berr := berr
            rsp := s.rsp ++ [rsp64 beat.1 3 0 0 beat.2.r beat.2.g beat.2.b] })) ∧
    execute 0xC0144016803C0000 { State.reset with mode := .batch, p := 0xD08, rem := 3 } =
      .next { State.reset with mode := .batch, p := 0xD08, rem := 2, rsp := [0x0C0000FF0024000A] } ∧
    execute 0xC024400D80088000 { State.reset with mode := .batch, p := 0xD08, rem := 2 } =
      .next { State.reset with mode := .batch, p := 0xD08, rem := 1, rsp := [0x0C00000000CB0008] } ∧
    execute 0xC00A403C001B8000 { State.reset with mode := .batch, p := 0xD08, rem := 1 } =
      .next { State.reset with p := 0xD08, rsp := [0x0E00000D001C00F9] }

/-- A PLANE with legal parameters and three equal lengths of at least 1 opens a batch: the completion of PLANE. -/
def Obligations.PlaneOpensABatch : Prop :=
  ∀ (s : State) (n : Field16) (space : BitVec 3) (range : BitVec 1) (din dout : BitVec 5), s.mode = .idle → n ≠ 0 →
    space.toNat ≤ 6 → LegalDepth din.toNat → LegalDepth dout.toNat →
      exec (.plane n n n space range din dout) s =
        .next { s with
          mode := .batch, p := packParams space range din dout, rem := n, berr := false
          rsp := s.rsp ++ [0x0800000000000000] }

/-- The headline: CVT with in-range samples answers, for every colour space, range and pair of depths, exactly the pixel the
spec's formulas give on rational numbers from end to end, with the coefficients of R72 to R77 (log entry 1), and changes nothing
else. -/
def Obligations.CvtAnswersTheExactPixel : Prop :=
  ∀ (s : State) (q : Params) (y cb cr : Field16), s.mode = .idle →
    y.toNat ≤ 2 ^ depthBits q.din - 1 → cb.toNat ≤ 2 ^ depthBits q.din - 1 → cr.toNat ≤ 2 ^ depthBits q.din - 1 →
      exec (.cvt y cb cr (spaceCode q.space) (rangeCode q.range) (depthField q.din) (depthField q.dout)) s =
        .next { s with
          rsp := s.rsp ++ [let t := pixelQ q y.toNat cb.toNat cr.toNat
                           rsp64 0 1 0 0 t.r t.g t.b] }

/-- The same for DATA, with the parameters the open batch holds in `P`; a beat that is not the last leaves the batch open. -/
def Obligations.DataAnswersTheExactPixel : Prop :=
  ∀ (s : State) (q : Params) (y cb cr : Field16), s.mode = .batch → 2 ≤ s.rem.toNat →
    s.p = packParams (spaceCode q.space) (rangeCode q.range) (depthField q.din) (depthField q.dout) →
    y.toNat ≤ 2 ^ depthBits q.din - 1 → cb.toNat ≤ 2 ^ depthBits q.din - 1 → cr.toNat ≤ 2 ^ depthBits q.din - 1 →
      exec (.data y cb cr 0) s =
        .next { s with
          rem := s.rem - 1
          rsp := s.rsp ++ [let t := pixelQ q y.toNat cb.toNat cr.toNat
                           rsp64 0 3 0 0 t.r t.g t.b] }

/-! ### Errors -/

/-- R146: DATA in IDLE, and any other word in BATCH, with the examples. -/
def Obligations.WordsOutOfSequence : Prop :=
  (∀ (s : State) (w : Word), s.mode = .idle → wordBits w 63 62 = 3 →
      execute w s = .next { s with rsp := s.rsp ++ [rsp64 6 3 0 0 0 0 0] }) ∧
    (∀ (s : State) (w : Word), s.mode = .batch → wordBits w 63 62 ≠ 3 →
      execute w s =
        .next { s with
          mode := .idle, rem := 0, berr := false
          rsp := s.rsp ++ [rsp64 6 (wordBits w 63 62) 1 1 0 0 0] }) ∧
    execute 0xC00040008000C000 State.reset = .next { State.reset with rsp := [0x6C00000000000000] } ∧
    execute 0x4004002000200108 { State.reset with mode := .batch, p := 0x3110, rem := 2 } =
      .next { State.reset with p := 0x3110, rsp := [0x6700000000000000] }

/-- R145: a word with `op = 0b00` in IDLE, and a DATA word with reserved bits set in BATCH: the beat is counted, `BERR` is set,
and the samples are neither converted nor checked, whatever `P` holds. -/
def Obligations.IllegalCommandResponses : Prop :=
  (∀ (s : State) (w : Word), s.mode = .idle → wordBits w 63 62 = 0 →
      execute w s = .next { s with rsp := s.rsp ++ [rsp64 5 0 0 0 0 0 0] }) ∧
    (∀ (s : State) (w : Word), s.mode = .batch → wordBits w 63 62 = 3 → wordBits w 13 0 ≠ 0 →
      execute w s =
        if s.rem.toNat = 1 then
          .next { s with mode := .idle, rem := 0, berr := false, rsp := s.rsp ++ [rsp64 5 3 1 1 0 0 0] }
        else .next { s with rem := s.rem - 1, berr := true, rsp := s.rsp ++ [rsp64 5 3 0 0 0 0 0] }) ∧
    (∀ (s : State) (w : Word) (t : State), s.mode = .batch → wordBits w 63 62 = 0 → execute w s = .next t →
      (t.rsp.getLast?.map rspStatus) = some 6) ∧
    (∀ (s : State) (w : Word) (t : State), s.mode = .idle → wordBits w 63 62 = 3 → execute w s = .next t →
      (t.rsp.getLast?.map rspStatus) = some 6) ∧
    execute 0 State.reset = .next { State.reset with rsp := [0x5000000000000000] } ∧
    execute 0xC080009600640001 { State.reset with mode := .batch, p := 0x2D4A, rem := 2 } =
      .next { State.reset with mode := .batch, p := 0x2D4A, rem := 1, berr := true, rsp := [0x5C00000000000000] }

/-- R141: a CVT or PLANE in IDLE with an illegal depth, whatever its samples, lengths and colour space are. No other word answers it:
no word in BATCH, no word that is neither CVT nor PLANE, and no word with two legal depths. -/
def Obligations.InvalidBitDepthResponses : Prop :=
  (∀ (s : State) (w : Word), s.mode = .idle → (wordBits w 63 62 = 1 ∨ wordBits w 63 62 = 2) →
      ¬ (LegalDepth (wordBits w 9 5) ∧ LegalDepth (wordBits w 4 0)) →
      execute w s = .next { s with rsp := s.rsp ++ [rsp64 1 (wordBits w 63 62) 0 0 0 0 0] }) ∧
    (∀ (s : State) (w : Word) (t : State),
      s.mode = .batch ∨ ¬ (wordBits w 63 62 = 1 ∨ wordBits w 63 62 = 2) ∨
        (LegalDepth (wordBits w 9 5) ∧ LegalDepth (wordBits w 4 0)) →
      execute w s = .next t → (t.rsp.getLast?.map rspStatus) ≠ some 1) ∧
    execute 0x400040008000C128 State.reset = .next { State.reset with rsp := [0x1400000000000000] }

/-- R144: a CVT or PLANE in IDLE with good depths and `space = 7`. No other word answers it: no word in BATCH, no word that is neither
CVT nor PLANE, no word with an illegal depth, and no word with another space. -/
def Obligations.ReservedColorSpaceResponses : Prop :=
  (∀ (s : State) (w : Word), s.mode = .idle → (wordBits w 63 62 = 1 ∨ wordBits w 63 62 = 2) →
      LegalDepth (wordBits w 9 5) → LegalDepth (wordBits w 4 0) → wordBits w 13 11 = 7 →
      execute w s = .next { s with rsp := s.rsp ++ [rsp64 4 (wordBits w 63 62) 0 0 0 0 0] }) ∧
    (∀ (s : State) (w : Word) (t : State),
      s.mode = .batch ∨ ¬ (wordBits w 63 62 = 1 ∨ wordBits w 63 62 = 2) ∨
        ¬ (LegalDepth (wordBits w 9 5) ∧ LegalDepth (wordBits w 4 0)) ∨ wordBits w 13 11 ≠ 7 →
      execute w s = .next t → (t.rsp.getLast?.map rspStatus) ≠ some 4) ∧
    execute 0x400040008000F908 State.reset = .next { State.reset with rsp := [0x4400000000000000] } ∧
    execute 0x8000400040007908 State.reset = .next { State.reset with rsp := [0x4800000000000000] }

/-- R142: a PLANE in IDLE with good parameters and lengths that are not all equal. No word that is not a PLANE
answers it. -/
def Obligations.PlaneLengthMismatchResponses : Prop :=
  (∀ (s : State) (w : Word), s.mode = .idle → wordBits w 63 62 = 2 → LegalDepth (wordBits w 9 5) →
      LegalDepth (wordBits w 4 0) → wordBits w 13 11 ≠ 7 →
      ¬ (wordBits w 61 46 = wordBits w 45 30 ∧ wordBits w 45 30 = wordBits w 29 14) →
      execute w s = .next { s with rsp := s.rsp ++ [rsp64 2 2 0 0 0 0 0] }) ∧
    (∀ (s : State) (w : Word) (t : State), wordBits w 63 62 ≠ 2 → execute w s = .next t →
      (t.rsp.getLast?.map rspStatus) ≠ some 2) ∧
    execute 0x800080008000C108 State.reset = .next { State.reset with rsp := [0x2800000000000000] }

/-- R143: a CVT in IDLE, or a well-formed DATA in BATCH, with a sample above `2^din - 1`, for every colour space. An in-range
sample is never this error, and at depth 16 no CVT and no DATA answers it. -/
def Obligations.SampleOutOfRangeResponses : Prop :=
  (∀ (s : State) (q : Params) (y cb cr : Field16), s.mode = .idle →
      2 ^ depthBits q.din - 1 < max y.toNat (max cb.toNat cr.toNat) →
      exec (.cvt y cb cr (spaceCode q.space) (rangeCode q.range) (depthField q.din) (depthField q.dout)) s =
        .next { s with rsp := s.rsp ++ [rsp64 3 1 0 0 0 0 0] }) ∧
    (∀ (s : State) (q : Params) (y cb cr : Field16), s.mode = .batch →
      s.p = packParams (spaceCode q.space) (rangeCode q.range) (depthField q.din) (depthField q.dout) →
      2 ^ depthBits q.din - 1 < max y.toNat (max cb.toNat cr.toNat) →
      exec (.data y cb cr 0) s =
        if s.rem.toNat = 1 then
          .next { s with mode := .idle, rem := 0, berr := false, rsp := s.rsp ++ [rsp64 3 3 1 1 0 0 0] }
        else .next { s with rem := s.rem - 1, berr := true, rsp := s.rsp ++ [rsp64 3 3 0 0 0 0 0] }) ∧
    (∀ (s t : State) (q : Params) (y cb cr : Field16), s.mode = .idle →
      max y.toNat (max cb.toNat cr.toNat) ≤ 2 ^ depthBits q.din - 1 →
      exec (.cvt y cb cr (spaceCode q.space) (rangeCode q.range) (depthField q.din) (depthField q.dout)) s = .next t →
      (t.rsp.getLast?.map rspStatus) = some 0) ∧
    (∀ (s t : State) (q : Params) (y cb cr : Field16), s.mode = .batch →
      s.p = packParams (spaceCode q.space) (rangeCode q.range) (depthField q.din) (depthField q.dout) →
      max y.toNat (max cb.toNat cr.toNat) ≤ 2 ^ depthBits q.din - 1 →
      exec (.data y cb cr 0) s = .next t → (t.rsp.getLast?.map rspStatus) = some 0) ∧
    (∀ (s t : State) (y cb cr : Field16) (space : BitVec 3) (range : BitVec 1) (dout : BitVec 5),
      exec (.cvt y cb cr space range 16 dout) s = .next t → (t.rsp.getLast?.map rspStatus) ≠ some 3) ∧
    (∀ (s t : State) (y cb cr : Field16) (rsv : BitVec 14), pDin s.p = 16 →
      exec (.data y cb cr rsv) s = .next t → (t.rsp.getLast?.map rspStatus) ≠ some 3) ∧
    execute 0x404000008000C108 State.reset = .next { State.reset with rsp := [0x3400000000000000] } ∧
    execute 0xC010008001000000 { State.reset with mode := .batch, p := 0x148, rem := 2 } =
      .next { State.reset with mode := .batch, p := 0x148, rem := 1, berr := true, rsp := [0x3C00000000000000] }

/-- R148: the status of every word's response, in both modes, is the first applicable cause, read from the raw bits of the word
and of `P`. -/
def Obligations.StatusIsTheFirstApplicableCause : Prop :=
  (∀ (s : State) (w : Word), BatchInv s →
    ∃ t r, execute w s = .next t ∧ t.rsp = s.rsp ++ [r] ∧
      (rspStatus r).toNat =
        if s.mode = .batch ∧ wordBits w 63 62 ≠ 3 then 6
        else if s.mode = .idle ∧ wordBits w 63 62 = 3 then 6
        else if wordBits w 63 62 = 0 then 5
        else if wordBits w 63 62 = 3 ∧ wordBits w 13 0 ≠ 0 then 5
        else if wordBits w 63 62 = 3 then
          if max (wordBits w 61 46) (max (wordBits w 45 30) (wordBits w 29 14)) > 2 ^ (s.p.toNat / 2 ^ 5 % 2 ^ 5) - 1 then 3 else 0
        else if ¬ (LegalDepth (wordBits w 9 5) ∧ LegalDepth (wordBits w 4 0)) then 1
        else if wordBits w 13 11 = 7 then 4
        else if wordBits w 63 62 = 2 then
          if wordBits w 61 46 = wordBits w 45 30 ∧ wordBits w 45 30 = wordBits w 29 14 then 0 else 2
        else if max (wordBits w 61 46) (max (wordBits w 45 30) (wordBits w 29 14)) > 2 ^ wordBits w 9 5 - 1 then 3 else 0) ∧
  execute 0x80004000800040E8 State.reset = .next { State.reset with rsp := [0x1800000000000000] } ∧
  execute 0x404B00008000F928 State.reset = .next { State.reset with rsp := [0x1400000000000000] } ∧
  execute 0x404B00008000F908 State.reset = .next { State.reset with rsp := [0x4400000000000000] }

/-- R147, which the spec marks as derived from R141 to R146 and R123: which word can report which status in which mode, and the
batch is aborted in the last row; and a word that reports it, for every entry of the table. -/
def Obligations.StatusesPerCommandAndMode : Prop :=
  (∀ (s : State) (w : Word), BatchInv s →
    ∃ t r, execute w s = .next t ∧ t.rsp = s.rsp ++ [r] ∧
      (let st := (rspStatus r).toNat
       (s.mode = .idle → wordBits w 63 62 = 0 → st = 5) ∧
        (s.mode = .idle → wordBits w 63 62 = 1 → st = 0 ∨ st = 1 ∨ st = 3 ∨ st = 4) ∧
        (s.mode = .idle → wordBits w 63 62 = 2 → st = 0 ∨ st = 1 ∨ st = 2 ∨ st = 4) ∧
        (s.mode = .idle → wordBits w 63 62 = 3 → st = 6) ∧
        (s.mode = .batch → wordBits w 63 62 = 3 → st = 0 ∨ st = 3 ∨ st = 5) ∧
        (s.mode = .batch → wordBits w 63 62 ≠ 3 → st = 6 ∧ t.mode = .idle) ∧
        st < 7)) ∧
    (∀ x ∈ [((0 : Word), 5), (0x403AC02000200108, 0), (0x400040008000C128, 1), (0x404000008000C108, 3), (0x400040008000F908, 4),
        (0x8000C000C000CD08, 0), (0x80004000800040E8, 1), (0x800080008000C108, 2), (0x8000400040007908, 4),
        (0xC00040008000C000, 6)],
      ∃ t r, execute x.1 State.reset = .next t ∧ t.rsp = [r] ∧ (rspStatus r).toNat = x.2) ∧
    (∀ x ∈ [((0xC010008001000000 : Word), 3), (0xC010008000000000, 0), (0xC080009600640001, 5), (0, 6), (0x403AC02000200108, 6),
        (0x8000C000C000CD08, 6)],
      ∃ t r, execute x.1 { State.reset with mode := .batch, p := 0x148, rem := 2 } = .next t ∧ t.rsp = [r] ∧
        (rspStatus r).toNat = x.2)

/-- The bits beside the status (30_encoding.md section 2): the opcode echo, `last` exactly when a batch is closed or an empty
batch answered, `berr` there exactly when the batch was aborted or had a failed beat, and 0 elsewhere. -/
def Obligations.ClosingBitsOfAResponse : Prop :=
  ∀ (s : State) (w : Word), BatchInv s →
    ∃ t r, execute w s = .next t ∧ t.rsp = s.rsp ++ [r] ∧ (rspOp r).toNat = wordBits w 63 62 ∧
      (rspLast r = 1 ↔
        (s.mode = .batch ∧ t.mode = .idle) ∨
          (s.mode = .idle ∧ wordBits w 63 62 = 2 ∧ rspStatus r = 0 ∧ t.mode = .idle)) ∧
      (rspBerr r = 1 ↔ s.mode = .batch ∧ t.mode = .idle ∧ (s.berr = true ∨ rspStatus r ≠ 0))

/-- A failed CVT or PLANE, and every word in IDLE that is answered with an error, leaves the block's state as it was
(60_exceptions.md section 3). -/
def Obligations.FailuresInIdleLeaveTheState : Prop :=
  ∀ (s t : State) (w r : Word), s.mode = .idle → execute w s = .next t → t.rsp = s.rsp ++ [r] → rspStatus r ≠ 0 →
    t = { s with rsp := s.rsp ++ [r] }

/-! ### Frames -/

/-- What every command leaves unchanged: the words still on CMD, the host's readiness, and the responses already on RSP; it adds
exactly one response, which echoes its opcode. -/
def Obligations.EveryCommandAddsOneResponse : Prop :=
  ∀ (i : Instr) (s t : State), exec i s = .next t →
    t.cmd = s.cmd ∧ t.rspReady = s.rspReady ∧ ∃ r, t.rsp = s.rsp ++ [r] ∧ rspOp r = i.op

/-- Which command writes which element of the block's state (10_state.md section 3): CVT in IDLE and DATA in IDLE none; `P` only
an accepted PLANE; in BATCH, DATA decrements `REM` and keeps `P`, every other command clears `MODE`, `REM` and `BERR` and keeps
`P`. -/
def Obligations.CommandFrames : Prop :=
  ∀ (i : Instr) (s t : State), exec i s = .next t →
    (s.mode = .idle → i.op ≠ 2 → t.mode = s.mode ∧ t.p = s.p ∧ t.rem = s.rem ∧ t.berr = s.berr) ∧
    (s.mode = .idle → i.op = 2 →
      (t.mode = s.mode ∧ t.p = s.p ∧ t.rem = s.rem ∧ t.berr = s.berr) ∨
        (t.mode = .batch ∧ t.rem ≠ 0 ∧ t.berr = false ∧ t.p = BitVec.ofNat 14 (wordBits (encode i) 13 0) ∧ LegalP t.p)) ∧
    (s.mode = .batch → i.op = 3 → t.p = s.p ∧ t.rem = s.rem - 1 ∧ (t.mode = .idle ↔ t.rem = 0)) ∧
    (s.mode = .batch → i.op ≠ 3 → t.mode = .idle ∧ t.p = s.p ∧ t.rem = 0 ∧ t.berr = false)

/-! ### The data path -/

/-- The normalizer with the numbers of the table of 00_scope.md section 5, at each depth. -/
def Obligations.NormByTheDepthTable : Prop :=
  ∀ y cb cr : Int,
    normYCC y cb cr .studio .d8 = ⟨y - 16, 219, cb - 128, cr - 128, 224⟩ ∧
    normYCC y cb cr .studio .d10 = ⟨y - 64, 876, cb - 512, cr - 512, 896⟩ ∧
    normYCC y cb cr .studio .d12 = ⟨y - 256, 3504, cb - 2048, cr - 2048, 3584⟩ ∧
    normYCC y cb cr .studio .d16 = ⟨y - 4096, 56064, cb - 32768, cr - 32768, 57344⟩ ∧
    normYCC y cb cr .full .d8 = ⟨y, 255, cb - 128, cr - 128, 255⟩ ∧
    normYCC y cb cr .full .d10 = ⟨y, 1023, cb - 512, cr - 512, 1023⟩ ∧
    normYCC y cb cr .full .d12 = ⟨y, 4095, cb - 2048, cr - 2048, 4095⟩ ∧
    normYCC y cb cr .full .d16 = ⟨y, 65535, cb - 32768, cr - 32768, 65535⟩

/-- R92, which the spec marks as derived from R86 to R89: the common chroma centre, strict monotony, the studio factor that
cancels (and the full one that does not), and the bounds at depth 16. -/
def Obligations.NormProperties : Prop :=
  (∀ (y : Int) (r : SignalRange) (d : BitDepth),
      (normYCC y (2 ^ (depthBits d - 1)) (2 ^ (depthBits d - 1)) r d).ncb = 0 ∧
      (normYCC y (2 ^ (depthBits d - 1)) (2 ^ (depthBits d - 1)) r d).ncr = 0 ∧
      (2 : Int) ^ (depthBits d - 1) = 128 * 2 ^ (depthBits d - 8)) ∧
    (∀ (y y' c c' : Int) (r : SignalRange) (d : BitDepth), y < y' → c < c' →
      ((normYCC y c c r d).ny : ℚ) / (normYCC y c c r d).dy < (normYCC y' c' c' r d).ny / (normYCC y' c' c' r d).dy ∧
      ((normYCC y c c r d).ncb : ℚ) / (normYCC y c c r d).dc < (normYCC y' c' c' r d).ncb / (normYCC y' c' c' r d).dc ∧
      ((normYCC y c c r d).ncr : ℚ) / (normYCC y c c r d).dc < (normYCC y' c' c' r d).ncr / (normYCC y' c' c' r d).dc) ∧
    (∀ (y cb cr : Int) (d : BitDepth),
      let k : Int := 2 ^ (depthBits d - 8)
      let n := normYCC (y * k) (cb * k) (cr * k) .studio d
      let m := normYCC y cb cr .studio .d8
      (n.ny : ℚ) / n.dy = m.ny / m.dy ∧ (n.ncb : ℚ) / n.dc = m.ncb / m.dc ∧ (n.ncr : ℚ) / n.dc = m.ncr / m.dc) ∧
    (((normYCC (255 * 4) 512 512 .full .d10).ny : ℚ) / (normYCC (255 * 4) 512 512 .full .d10).dy ≠
      (normYCC 255 128 128 .full .d8).ny / (normYCC 255 128 128 .full .d8).dy) ∧
    (∀ (y cb cr : Nat) (r : SignalRange), y ≤ 65535 → cb ≤ 65535 → cr ≤ 65535 →
      let n := normYCC y cb cr r .d16
      n.ny ≤ 65535 ∧ -4096 ≤ n.ny ∧ -32768 ≤ n.ncb ∧ n.ncb ≤ 32767 ∧ -32768 ≤ n.ncr ∧ n.ncr ≤ 32767 ∧
        0 < n.dy ∧ n.dy ≤ 65535 ∧ 0 < n.dc ∧ n.dc ≤ 65535)

/-- The coefficients of the five Kr/Kb families, R72 to R76, which the spec marks as from general knowledge (log entry 1), and
BT470BG's results equal to BT601's for every input. -/
def Obligations.DescriptorTable : Prop :=
  desc cfg .bt601 = .krKb ⟨299, 114, 1000⟩ ∧ desc cfg .bt709 = .krKb ⟨2126, 722, 10000⟩ ∧
    desc cfg .fcc = .krKb ⟨30, 11, 100⟩ ∧ desc cfg .bt470bg = .krKb ⟨299, 114, 1000⟩ ∧
    desc cfg .smpte240 = .krKb ⟨212, 87, 1000⟩ ∧
    (kgNum ⟨299, 114, 1000⟩ = 587 ∧ kgNum ⟨2126, 722, 10000⟩ = 7152 ∧ kgNum ⟨30, 11, 100⟩ = 59 ∧ kgNum ⟨212, 87, 1000⟩ = 701) ∧
    cfg.ktab.valid = true ∧
    (∀ (r : SignalRange) (di dd : BitDepth) (y cb cr : Nat),
      conv cfg ⟨.bt470bg, r, di, dd⟩ y cb cr = conv cfg ⟨.bt601, r, di, dd⟩ y cb cr)

/-- R96: for any coefficients that meet R79 and any positive denominators, the integer matrix is the source's formula on
rationals. -/
def Obligations.MatrixIsTheSourceFormula : Prop :=
  ∀ (e : KrKb) (n : UnitYCC), e.valid = true → 0 < n.dy → 0 < n.dc →
    let kr : ℚ := (e.a : ℚ) / e.k
    let kb : ℚ := (e.b : ℚ) / e.k
    let y : ℚ := (n.ny : ℚ) / n.dy
    let cb : ℚ := (n.ncb : ℚ) / n.dc
    let cr : ℚ := (n.ncr : ℚ) / n.dc
    let u := matrixKrKb e n
    (u.r.num : ℚ) / u.r.den = y + 2 * (1 - kr) * cr ∧ (u.b.num : ℚ) / u.b.den = y + 2 * (1 - kb) * cb ∧
      (u.g.num : ℚ) / u.g.den = y - (2 * kr * (1 - kr) * cr + 2 * kb * (1 - kb) * cb) / (1 - kr - kb) ∧
      0 < u.r.den ∧ 0 < u.g.den ∧ 0 < u.b.den

/-- R99, whose matrix the spec marks as from general knowledge (log entry 1): the YCgCo integers, whatever the Kr/Kb table holds,
with the worked example. -/
def Obligations.YCgCoIsItsFixedMatrix : Prop :=
  (∀ (k : Ktab) (r : SignalRange) (d : BitDepth) (y cb cr : Int),
      let n := normYCC y cb cr r d
      let u := unitRgb { cfg with ktab := k } .ycgco r d y cb cr
      u.r = ⟨n.ny * n.dc + (n.ncr - n.ncb) * n.dy, n.dy * n.dc⟩ ∧ u.g = ⟨n.ny * n.dc + n.ncb * n.dy, n.dy * n.dc⟩ ∧
        u.b = ⟨n.ny * n.dc - (n.ncb + n.ncr) * n.dy, n.dy * n.dc⟩) ∧
    unitRgb cfg .ycgco .studio .d8 145 54 34 = ⟨⟨24516, 49056⟩, ⟨12690, 49056⟩, ⟨65688, 49056⟩⟩

/-- Bounds of the Kr/Kb integers at depth 16 (42_colorspace_matrix_engine.md section 2, R98's figures), for in-range samples:
every numerator and denominator stays below the power of two given there. -/
def Obligations.MatrixIntermediateBounds : Prop :=
  ∀ (sp : ColorSpace) (e : KrKb) (r : SignalRange) (y cb cr : Nat), desc cfg sp = .krKb e →
    y ≤ 65535 → cb ≤ 65535 → cr ≤ 65535 →
      let u := matrixKrKb e (normYCC y cb cr r .d16)
      abs u.r.num < 2 ^ 47 ∧ abs u.b.num < 2 ^ 47 ∧ u.r.den < 2 ^ 46 ∧ u.b.den < 2 ^ 46 ∧ abs u.g.num < 2 ^ 60 ∧ u.g.den < 2 ^ 59

/-- R111, R112, R113: multiply by `Mout`, add one half and take the floor, clamp to `[0, Mout]`, all on the exact rational; and
R112's examples of rounding, before the clamp. -/
def Obligations.ScaleRoundsHalfUpAndClamps : Prop :=
  (∀ (q : Ratio) (dout : BitDepth), 0 < q.den →
      scale q dout = max 0 (min (2 ^ depthBits dout - 1) ⌊(q.num : ℚ) / q.den * (2 ^ depthBits dout - 1) + 1 / 2⌋)) ∧
    (scalePre ⟨425, 2550⟩ .d8 = 43 ∧ scalePre ⟨424999, 2550000⟩ .d8 = 42 ∧ scalePre ⟨-5, 2550⟩ .d8 = 0 ∧
      scalePre ⟨-15, 2550⟩ .d8 = -1 ∧ scalePre ⟨-50001, 25500000⟩ .d8 = -1)

/-- R117 and the remark on negative ties in R112, which the spec marks as derived: the scaler is monotone, exact on multiples of
`1 / Mout`, rounds the tie 1/6 at 8 bits up to 43, its 16-bit output rescaled to 8 bits differs from the 8-bit output by at most
1, and the other way to break a negative tie gives the same after the clamp. -/
def Obligations.ScaleProperties : Prop :=
  (∀ (q q' : Ratio) (dout : BitDepth), 0 < q.den → 0 < q'.den → (q.num : ℚ) / q.den ≤ q'.num / q'.den →
      scale q dout ≤ scale q' dout) ∧
    (∀ (q : Ratio) (dout : BitDepth) (k : Int), 0 < q.den → 0 ≤ k → k ≤ 2 ^ depthBits dout - 1 →
      (q.num : ℚ) / q.den = k / (2 ^ depthBits dout - 1) → scale q dout = k) ∧
    (∀ sp : ColorSpace, sp ≠ .identity →
      conv cfg ⟨sp, .studio, .d10, .d8⟩ 210 512 512 = .rgb ⟨43, 43, 43⟩) ∧
    (∀ q : Ratio, 0 < q.den → abs (⌊((scale q .d16 : ℚ)) * 255 / 65535 + 1 / 2⌋ - scale q .d8) ≤ 1) ∧
    (∀ (q : Ratio) (dout : BitDepth), 0 < q.den → q.num < 0 →
      scale q dout = max 0 (min (2 ^ depthBits dout - 1) ⌈(q.num : ℚ) / q.den * (2 ^ depthBits dout - 1) - 1 / 2⌉))

/-- R115: Identity through the scaler: exact passthrough at equal depths, the proportional rescale otherwise, with no clamp
needed, and the examples. -/
def Obligations.IdentityThroughTheScaler : Prop :=
  (∀ (v : Nat) (din dout : BitDepth), v ≤ 2 ^ depthBits din - 1 →
      scale ⟨v, fullScale din⟩ dout = ⌊(v : ℚ) * (2 ^ depthBits dout - 1) / (2 ^ depthBits din - 1) + 1 / 2⌋) ∧
    (∀ (v : Nat) (d : BitDepth), v ≤ 2 ^ depthBits d - 1 → scale ⟨v, fullScale d⟩ d = v) ∧
    (∀ din dout : BitDepth, scale ⟨0, fullScale din⟩ dout = 0 ∧ scale ⟨fullScale din, fullScale din⟩ dout = fullScale dout) ∧
    scale ⟨1, fullScale .d8⟩ .d16 = 257 ∧ scale ⟨32768, fullScale .d16⟩ .d8 = 128 ∧ scale ⟨128, fullScale .d16⟩ .d8 = 0

/-- The Identity invariant (44_converter_commands.md section 4): at equal depths the pixel is (Cr, Y, Cb) exactly, for both
ranges. -/
def Obligations.IdentityInvariant : Prop :=
  ∀ (r : SignalRange) (d : BitDepth) (y cb cr : Nat), y ≤ 2 ^ depthBits d - 1 → cb ≤ 2 ^ depthBits d - 1 →
    cr ≤ 2 ^ depthBits d - 1 → conv cfg ⟨.identity, r, d, d⟩ y cb cr = .rgb ⟨cr, y, cb⟩

/-- R101, which the spec marks as derived from R97 and R99: with both chroma numerators zero the three outputs of the Kr/Kb
matrix, for any coefficients that meet R79, and of the YCgCo matrix equal the luma unit value; for Identity they need not. -/
def Obligations.GrayIsAchromatic : Prop :=
  (∀ (e : KrKb) (n : UnitYCC), e.valid = true → 0 < n.dy → 0 < n.dc → n.ncb = 0 → n.ncr = 0 →
    ∀ u ∈ [(matrixKrKb e n).r, (matrixKrKb e n).g, (matrixKrKb e n).b,
           (matrixYCgCo cfg.ycgco n).r, (matrixYCgCo cfg.ycgco n).g, (matrixYCgCo cfg.ycgco n).b],
      (u.num : ℚ) / u.den = n.ny / n.dy) ∧
    conv cfg ⟨.identity, .full, .d8, .d8⟩ 10 128 128 = .rgb ⟨128, 10, 128⟩

/-- The Gray invariant on pixels (44_converter_commands.md section 4), for every coefficient table that meets R79. -/
def Obligations.GrayPixels : Prop :=
  ∀ (k : Ktab) (q : Params) (y : Nat), k.valid = true → q.space ≠ .identity → y ≤ 2 ^ depthBits q.din - 1 →
    let mid : Nat := 2 ^ (depthBits q.din - 1)
    let n := normYCC y mid mid q.range q.din
    let v := (scale ⟨n.ny, n.dy⟩ q.dout).toNat
    conv { cfg with ktab := k } q y mid mid = .rgb ⟨v, v, v⟩

/-- Monotony in luma (44_converter_commands.md section 4), for every coefficient table that meets R79. -/
def Obligations.PixelsAreMonotoneInLuma : Prop :=
  ∀ (k : Ktab) (q : Params) (y y' cb cr : Nat) (t t' : Rgb), k.valid = true → q.space ≠ .identity → y ≤ y' →
    conv { cfg with ktab := k } q y cb cr = .rgb t → conv { cfg with ktab := k } q y' cb cr = .rgb t' →
      t.r ≤ t'.r ∧ t.g ≤ t'.g ∧ t.b ≤ t'.b

/-- The boundary scenarios (44_converter_commands.md section 4) at every pair of depths: neutral chroma with nominal black gives
zeros, with nominal white `Mout` three times. -/
def Obligations.BoundaryPixels : Prop :=
  ∀ (sp : ColorSpace) (di dd : BitDepth), sp ≠ .identity →
    let s := 2 ^ (depthBits di - 8)
    let mid := 2 ^ (depthBits di - 1)
    let top := 2 ^ depthBits dd - 1
    conv cfg ⟨sp, .studio, di, dd⟩ (16 * s) mid mid = .rgb ⟨0, 0, 0⟩ ∧
      conv cfg ⟨sp, .studio, di, dd⟩ (235 * s) mid mid = .rgb ⟨top, top, top⟩ ∧
      conv cfg ⟨sp, .full, di, dd⟩ 0 mid mid = .rgb ⟨0, 0, 0⟩ ∧
      conv cfg ⟨sp, .full, di, dd⟩ (2 ^ depthBits di - 1) mid mid = .rgb ⟨top, top, top⟩

/-- Every pixel lies in `[0, 2^dout - 1]`, for any configuration (44_converter_commands.md section 1). -/
def Obligations.PixelsAreInRange : Prop :=
  ∀ (c : Config) (q : Params) (y cb cr : Nat) (t : Rgb), conv c q y cb cr = .rgb t →
    t.r ≤ 2 ^ depthBits q.dout - 1 ∧ t.g ≤ 2 ^ depthBits q.dout - 1 ∧ t.b ≤ 2 ^ depthBits q.dout - 1

/-! ### Batches, interleavings and calls -/

/-- R128, which the spec marks as derived from R122, R124 and R126: the response to a well-formed DATA of an open batch, at any of
its beats, and the response a CVT with the same samples and the batch's parameters gets in IDLE mode have the same status and the
same triple. An open batch is a state in BATCH mode whose `P` is the one an accepted PLANE left. -/
def Obligations.CvtAndDataAgree : Prop :=
  ∀ (s b b' c : State) (n y cb cr : Field16) (space : BitVec 3) (range : BitVec 1) (din dout : BitVec 5),
    s.mode = .idle → b.mode = .idle → exec (.plane n n n space range din dout) b = .next b' → b'.mode = .batch →
    c.mode = .batch → c.p = b'.p →
      ∃ t u r v, exec (.cvt y cb cr space range din dout) s = .next t ∧ exec (.data y cb cr 0) c = .next u ∧
        t.rsp = s.rsp ++ [r] ∧ u.rsp = c.rsp ++ [v] ∧
        rspStatus r = rspStatus v ∧ rspReserved r = rspReserved v ∧ rspR r = rspR v ∧ rspG r = rspG v ∧ rspB r = rspB v

/-- `BERR` never changes a computed value: two states that differ in `BERR` only answer every command with the same status and the
same triple. -/
def Obligations.BatchErrorFlagLeavesPixelsAlone : Prop :=
  ∀ (s : State) (flag : Bool) (i : Instr) (t : State), exec i s = .next t →
    ∃ u r v, exec i { s with berr := flag } = .next u ∧ t.rsp = s.rsp ++ [r] ∧ u.rsp = s.rsp ++ [v] ∧
      rspStatus r = rspStatus v ∧ rspLast r = rspLast v ∧ rspR r = rspR v ∧ rspG r = rspG v ∧ rspB r = rspB v

/-- A batch runs to its end: after an accepted PLANE of length `n` and any `n` DATA words the block is idle again with nothing of
the batch left but `P`; each word has one response, only the last one closes the batch, and its `berr` says whether some beat
failed. -/
def Obligations.BatchRunsToItsEnd : Prop :=
  ∀ (s : State) (n : Field16) (space : BitVec 3) (range : BitVec 1) (din dout : BitVec 5) (ws : List Word),
    s.mode = .idle → n ≠ 0 → space.toNat ≤ 6 → LegalDepth din.toNat → LegalDepth dout.toNat →
    ws.length = n.toNat → (∀ w ∈ ws, wordBits w 63 62 = 3) →
      ∃ beats closing,
        executeAll (encode (.plane n n n space range din dout) :: ws) s =
          some { s with
            mode := .idle, p := packParams space range din dout, rem := 0, berr := false
            rsp := s.rsp ++ 0x0800000000000000 :: beats ++ [closing] } ∧
        beats.length + 1 = ws.length ∧
        (∀ r ∈ beats, rspOp r = 3 ∧ rspLast r = 0 ∧ rspBerr r = 0) ∧
        rspOp closing = 3 ∧ rspLast closing = 1 ∧
        (rspBerr closing = 1 ↔ ∃ r ∈ beats ++ [closing], rspStatus r ≠ 0)

/-- `convert_plane` is `convert_pixel` at every position (44_converter_commands.md section 4; the host procedures are the model's, log
entry 7): on an idle block with no outstanding words, planes of equal length of at most 65535 positions with legal parameters and
in-range samples give the list of the exact pixels, in index order, after one PLANE and one DATA per position in index order; and
`convert_pixel` at each of the positions gives that position's pixel after its one CVT. `FailedCallsReportTheirFailure` says how the
other calls end. -/
def Obligations.ConvertPlaneIsPointwise : Prop :=
  ∀ (s : State) (q : Params) (xs : List Position), BatchInv s → s.mode = .idle → s.cmd = [] → s.rsp = [] → s.rspReady = true →
    xs.length ≤ 65535 →
    (∀ x ∈ xs, x.y.toNat ≤ 2 ^ depthBits q.din - 1 ∧ x.cb.toNat ≤ 2 ^ depthBits q.din - 1 ∧
      x.cr.toNat ≤ 2 ^ depthBits q.din - 1) →
      let c : CallParams := ⟨spaceCode q.space, rangeCode q.range, depthField q.din, depthField q.dout⟩
      (∃ t, convertPlane c (xs.map Position.y) (xs.map Position.cb) (xs.map Position.cr) s =
          some (⟨.value (xs.map (fun x => pixelQ q x.y.toNat x.cb.toNat x.cr.toNat)),
            planeCommand c xs.length xs.length xs.length :: xs.map dataCommand⟩, t) ∧
        t.mode = .idle ∧ t.rem = 0 ∧ t.berr = false ∧ t.cmd = [] ∧ t.rsp = [] ∧ t.rspReady = true) ∧
      ∀ x ∈ xs, convertPixel c x s = some (⟨.value (pixelQ q x.y.toNat x.cb.toNat x.cr.toNat), [pixelCommand c x]⟩, s)

/-- Planes of any length, cut into consecutive batches (44_converter_commands.md section 4; the host procedure and the size of the
pieces are the model's, log entry 7), give the list of the exact pixels too. -/
def Obligations.LongPlanesArePointwise : Prop :=
  ∀ (s : State) (q : Params) (xs : List Position), BatchInv s → s.mode = .idle → s.cmd = [] → s.rsp = [] → s.rspReady = true →
    (∀ x ∈ xs, x.y.toNat ≤ 2 ^ depthBits q.din - 1 ∧ x.cb.toNat ≤ 2 ^ depthBits q.din - 1 ∧
      x.cr.toNat ≤ 2 ^ depthBits q.din - 1) →
      ∃ sent t, convertLongPlane ⟨spaceCode q.space, rangeCode q.range, depthField q.din, depthField q.dout⟩ (xs.map Position.y)
            (xs.map Position.cb) (xs.map Position.cr) s =
          some (⟨.value (xs.map (fun x => pixelQ q x.y.toNat x.cb.toNat x.cr.toNat)), sent⟩, t) ∧ t.mode = .idle

/-- What `P` holds in IDLE mode cannot be observed: with any other value there, every sequence of words gets the same responses
and leaves the same state, but for `P` while no batch has opened since. -/
def Obligations.IdleParametersAreUnobservable : Prop :=
  ∀ (s t : State) (p : BitVec 14) (ws : List Word), s.mode = .idle → executeAll ws s = some t →
    ∃ u, executeAll ws { s with p := p } = some u ∧ u = { t with p := u.p } ∧ (t.mode = .batch → u.p = t.p)

/-- Any interleaving of block steps with pushes, takes and changes of readiness, the model's events (log entries 5 and 10), gives the
responses of the sequential loop, whatever number of commands `CMD` accepts ahead: what the host took, then what waits on RSP, then
the answers to what still waits on CMD, are the answers of the loop to all the words `CMD` accepted, in push order; and the state is
the loop's. -/
def Obligations.InterleavingDoesNotChangeResponses : Prop :=
  ∀ (es : List Event) (s t : State) (x : Exchange), BatchInv s → (∀ e ∈ es, e ≠ .host .reset) →
    runEvents es s = some (x, t) →
      ∃ u v, executeAll (s.cmd ++ x.accepted) s = some u ∧ executeAll t.cmd t = some v ∧ u.rsp = x.taken ++ v.rsp ∧
        u.mode = v.mode ∧ u.p = v.p ∧ u.rem = v.rem ∧ u.berr = v.berr

/-- While RSP can take words, `k` queued commands are answered in `k` steps, one response each, as the sequential loop answers
them. -/
def Obligations.QueuedCommandsAreAnswered : Prop :=
  ∀ s : State, BatchInv s → s.rspReady = true →
    ∃ t : State, core.run s.cmd.length s = .next t ∧ t.cmd = [] ∧ t.rsp.length = s.rsp.length + s.cmd.length ∧
      executeAll s.cmd { s with cmd := [] } = some t

/-- One all-zero word brings a block in an unknown state to IDLE, and its response says whether a batch was open
(70_reset_and_hazards.md section 2). -/
def Obligations.ZeroWordResynchronises : Prop :=
  ∀ s : State, ∃ t r, execute 0 s = .next t ∧ t.rsp = s.rsp ++ [r] ∧ t.mode = .idle ∧
    (s.mode = .idle → rspStatus r = 5) ∧ (s.mode = .batch → rspStatus r = 6 ∧ rspLast r = 1)

/-- When `CMD` accepts a word (70_reset_and_hazards.md R173): while fewer than `acceptAhead` commands are outstanding, and, whatever
that number is, when none is and the host is ready for the response. Then the word is the last of CMD; else the push changes
nothing. That a block that accepts none ahead passes one command at a time is the model's reading of `at least zero` (log entry
10). -/
def Obligations.PushesWaitForRoom : Prop :=
  (∀ (s : State) (w : Word), s.cmd.length + s.rsp.length < acceptAhead → hostAct (.push w) s = { s with cmd := s.cmd ++ [w] }) ∧
    (∀ (s : State) (w : Word), s.rspReady = true → s.cmd = [] → s.rsp = [] → hostAct (.push w) s = { s with cmd := [w] }) ∧
    (∀ (s : State) (w : Word), acceptAhead ≤ s.cmd.length + s.rsp.length →
      s.rspReady = false ∨ s.cmd ≠ [] ∨ s.rsp ≠ [] → hostAct (.push w) s = s)

/-- R173, which the spec marks as derived from R37 and R38, for every number `acceptAhead` (log entry 10) and every run without a
reset. No response is dropped: the commands outstanding before and those accepted are those whose response was taken and those
outstanding after. The outstanding commands stay bounded. A host that takes no response gets no more than that bound accepted; and
when the bound is reached it is stalled for good: every command it still offers is refused until it takes a response. -/
def Obligations.HostThatTakesNothingIsStalled : Prop :=
  ∀ (es : List Event) (s t : State) (x : Exchange), (∀ e ∈ es, e ≠ .host .reset) → runEvents es s = some (x, t) →
    outstanding s + x.accepted.length = x.taken.length + outstanding t ∧
      (outstanding s ≤ max acceptAhead 1 → outstanding t ≤ max acceptAhead 1) ∧
      ((∀ e ∈ es, e ≠ .host .take) →
        x.taken = [] ∧ (outstanding s ≤ max acceptAhead 1 → x.accepted.length ≤ max acceptAhead 1 - outstanding s) ∧
          (max acceptAhead 1 ≤ outstanding s → x.accepted = [] ∧ cmdReady t = false))

/-- How a host's call fails (30_encoding.md section 5, 44_converter_commands.md section 4; the host procedures are the model's, log
entry 7), on a block between calls. `convert_pixel` fails with the status of its one response. A rejected PLANE fails the call with
its status, nothing but the PLANE has been sent, and the block is as before. A sample out of range at some position fails the call
at the closing response, after all the beats, the planes are discarded, and the block is between calls again. Long planes of
unequal lengths fail without a word to the block; with rejected parameters they fail with that status after one word, and with a
sample out of range at any position they fail as a batch does. -/
def Obligations.FailedCallsReportTheirFailure : Prop :=
  (∀ (s : State) (c : CallParams) (x : Position) (e : Status), BetweenCalls s →
      checkParams cfg c.space c.range c.din c.dout = .error e →
      convertPixel c x s = some (⟨.failed (statusCode e), [pixelCommand c x]⟩, s)) ∧
    (∀ (s : State) (c : CallParams) (q : Params) (x : Position), BetweenCalls s →
      checkParams cfg c.space c.range c.din c.dout = .ok q →
      2 ^ depthBits q.din - 1 < max x.y.toNat (max x.cb.toNat x.cr.toNat) →
      convertPixel c x s = some (⟨.failed 3, [pixelCommand c x]⟩, s)) ∧
    (∀ (s : State) (c : CallParams) (ys cbs crs : List Field16) (e : Status), BetweenCalls s →
      checkParams cfg c.space c.range c.din c.dout = .error e →
      convertPlane c ys cbs crs s =
        some (⟨.failed (statusCode e), [planeCommand c ys.length cbs.length crs.length]⟩, s)) ∧
    (∀ (s : State) (c : CallParams) (q : Params) (ys cbs crs : List Field16), BetweenCalls s →
      checkParams cfg c.space c.range c.din c.dout = .ok q →
      ys.length ≤ 65535 → cbs.length ≤ 65535 → crs.length ≤ 65535 → ¬ (ys.length = cbs.length ∧ cbs.length = crs.length) →
      convertPlane c ys cbs crs s = some (⟨.failed 2, [planeCommand c ys.length cbs.length crs.length]⟩, s)) ∧
    (∀ (s : State) (c : CallParams) (q : Params) (xs : List Position), BetweenCalls s →
      checkParams cfg c.space c.range c.din c.dout = .ok q → xs.length ≤ 65535 →
      (∃ x ∈ xs, 2 ^ depthBits q.din - 1 < max x.y.toNat (max x.cb.toNat x.cr.toNat)) →
      ∃ t, convertPlane c (xs.map Position.y) (xs.map Position.cb) (xs.map Position.cr) s =
          some (⟨.failedBatch, planeCommand c xs.length xs.length xs.length :: xs.map dataCommand⟩, t) ∧ BetweenCalls t) ∧
    (∀ (s : State) (c : CallParams) (ys cbs crs : List Field16),
      ¬ (ys.length ≤ 65535 ∧ cbs.length ≤ 65535 ∧ crs.length ≤ 65535) → ¬ (ys.length = cbs.length ∧ cbs.length = crs.length) →
      convertLongPlane c ys cbs crs s = some (⟨.failed 2, []⟩, s)) ∧
    (∀ (s : State) (c : CallParams) (xs : List Position) (e : Status), BetweenCalls s →
      checkParams cfg c.space c.range c.din c.dout = .error e → 65535 < xs.length →
      convertLongPlane c (xs.map Position.y) (xs.map Position.cb) (xs.map Position.cr) s =
        some (⟨.failed (statusCode e), [planeCommand c 65535 65535 65535]⟩, s)) ∧
    (∀ (s : State) (c : CallParams) (q : Params) (xs : List Position), BetweenCalls s →
      checkParams cfg c.space c.range c.din c.dout = .ok q →
      (∃ x ∈ xs, 2 ^ depthBits q.din - 1 < max x.y.toNat (max x.cb.toNat x.cr.toNat)) →
      ∃ sent t, convertLongPlane c (xs.map Position.y) (xs.map Position.cb) (xs.map Position.cr) s =
          some (⟨.failedBatch, sent⟩, t) ∧ BetweenCalls t)
end

