-- ==== Sys2Proof/Laws/Arith.lean ====
section
/-! SUPPORT. The arithmetic of the data path: floor division, clamp, and positive denominators (00_scope.md R6;
42_colorspace_matrix_engine.md R103). -/

namespace Sys2Proof.Machine

theorem fdiv_eq_ediv {n d : Int} (h : 0 < d) : fdiv n d = n / d :=
  Int.fdiv_eq_ediv_of_nonneg n h.le

/-- Floor division is the greatest `k` with `k * d ≤ n` (00_scope.md R6). -/
theorem le_fdiv_iff {k n d : Int} (h : 0 < d) : k ≤ fdiv n d ↔ k * d ≤ n := by
  rw [fdiv_eq_ediv h, Int.le_ediv_iff_mul_le h]

theorem clampTo_eq_max_min {v lo hi : Int} (h : lo ≤ hi) : clampTo v lo hi = max lo (min hi v) := by
  unfold clampTo
  split <;> [skip; split] <;> omega

theorem scaleOf_pos (d : BitDepth) : 0 < scaleOf d := by cases d <;> decide
theorem fullScale_pos (d : BitDepth) : 0 < fullScale d := by cases d <;> decide
theorem midOf_eq (d : BitDepth) : midOf d = 128 * scaleOf d := by cases d <;> decide

theorem scale_nonneg (q : Ratio) (d : BitDepth) : 0 ≤ scale q d := by
  have := fullScale_pos d
  rw [scale, clampTo_eq_max_min this.le]
  omega

theorem scale_le (q : Ratio) (d : BitDepth) : scale q d ≤ fullScale d := by
  have := fullScale_pos d
  rw [scale, clampTo_eq_max_min this.le]
  omega

theorem normYCC_dy_pos (y cb cr : Int) (r : SignalRange) (d : BitDepth) : 0 < (normYCC y cb cr r d).dy := by
  have := scaleOf_pos d
  cases r
  · simp only [normYCC]; omega
  · exact fullScale_pos d

theorem normYCC_dc_pos (y cb cr : Int) (r : SignalRange) (d : BitDepth) : 0 < (normYCC y cb cr r d).dc := by
  have := scaleOf_pos d
  cases r
  · simp only [normYCC]; omega
  · exact fullScale_pos d

theorem kgNum_pos {e : KrKb} (h : e.valid = true) : 0 < kgNum e := by
  simp only [KrKb.valid, Bool.and_eq_true, decide_eq_true_eq] at h
  unfold kgNum
  omega

theorem krKb_k_pos {e : KrKb} (h : e.valid = true) : 0 < e.k := by
  simp only [KrKb.valid, Bool.and_eq_true, decide_eq_true_eq] at h
  omega

/-- The default table meets 40_colorspace_descriptor.md R79. -/
theorem ktabDefault_valid : ktabDefault.valid = true := by decide

end Sys2Proof.Machine
end

