-- ==== Sys2Proof/Laws/State.lean ====
section
/-! SUPPORT. One lemma per field per update of the state, each true by definition. -/

namespace Sys2Proof.Machine

@[simp] theorem respond_mode (x : Response) (s : State) : (respond x s).mode = s.mode := rfl
@[simp] theorem respond_p (x : Response) (s : State) : (respond x s).p = s.p := rfl
@[simp] theorem respond_rem (x : Response) (s : State) : (respond x s).rem = s.rem := rfl
@[simp] theorem respond_berr (x : Response) (s : State) : (respond x s).berr = s.berr := rfl
@[simp] theorem respond_cmd (x : Response) (s : State) : (respond x s).cmd = s.cmd := rfl
@[simp] theorem respond_rsp (x : Response) (s : State) : (respond x s).rsp = s.rsp ++ [responseWord x] := rfl
@[simp] theorem respond_rspReady (x : Response) (s : State) : (respond x s).rspReady = s.rspReady := rfl

@[simp] theorem failCommand_mode (e : Status) (o : BitVec 2) (s : State) : (failCommand e o s).mode = s.mode := rfl
@[simp] theorem failCommand_p (e : Status) (o : BitVec 2) (s : State) : (failCommand e o s).p = s.p := rfl
@[simp] theorem failCommand_rem (e : Status) (o : BitVec 2) (s : State) : (failCommand e o s).rem = s.rem := rfl
@[simp] theorem failCommand_berr (e : Status) (o : BitVec 2) (s : State) : (failCommand e o s).berr = s.berr := rfl
@[simp] theorem failCommand_cmd (e : Status) (o : BitVec 2) (s : State) : (failCommand e o s).cmd = s.cmd := rfl
@[simp] theorem failCommand_rsp (e : Status) (o : BitVec 2) (s : State) :
    (failCommand e o s).rsp = s.rsp ++ [responseWord ⟨e, o, false, false, noRgb⟩] := rfl
@[simp] theorem failCommand_rspReady (e : Status) (o : BitVec 2) (s : State) :
    (failCommand e o s).rspReady = s.rspReady := rfl

@[simp] theorem abortBatch_mode (o : BitVec 2) (s : State) : (abortBatch o s).mode = .idle := rfl
@[simp] theorem abortBatch_p (o : BitVec 2) (s : State) : (abortBatch o s).p = s.p := rfl
@[simp] theorem abortBatch_rem (o : BitVec 2) (s : State) : (abortBatch o s).rem = 0 := rfl
@[simp] theorem abortBatch_berr (o : BitVec 2) (s : State) : (abortBatch o s).berr = false := rfl
@[simp] theorem abortBatch_cmd (o : BitVec 2) (s : State) : (abortBatch o s).cmd = s.cmd := rfl
@[simp] theorem abortBatch_rsp (o : BitVec 2) (s : State) :
    (abortBatch o s).rsp = s.rsp ++ [responseWord ⟨.sequenceError, o, true, true, noRgb⟩] := rfl
@[simp] theorem abortBatch_rspReady (o : BitVec 2) (s : State) : (abortBatch o s).rspReady = s.rspReady := rfl

@[simp] theorem openBatch_mode (p : BitVec 14) (n : Field16) (s : State) : (openBatch p n s).mode = .batch := rfl
@[simp] theorem openBatch_p (p : BitVec 14) (n : Field16) (s : State) : (openBatch p n s).p = p := rfl
@[simp] theorem openBatch_rem (p : BitVec 14) (n : Field16) (s : State) : (openBatch p n s).rem = n := rfl
@[simp] theorem openBatch_berr (p : BitVec 14) (n : Field16) (s : State) : (openBatch p n s).berr = false := rfl
@[simp] theorem openBatch_cmd (p : BitVec 14) (n : Field16) (s : State) : (openBatch p n s).cmd = s.cmd := rfl
@[simp] theorem openBatch_rsp (p : BitVec 14) (n : Field16) (s : State) :
    (openBatch p n s).rsp = s.rsp ++ [responseWord ⟨.ok, 2, false, false, noRgb⟩] := rfl
@[simp] theorem openBatch_rspReady (p : BitVec 14) (n : Field16) (s : State) :
    (openBatch p n s).rspReady = s.rspReady := rfl

@[simp] theorem countBeat_mode (e : Status) (t : Rgb) (s : State) :
    (countBeat e t s).mode = if lastBeat s then .idle else s.mode := rfl
@[simp] theorem countBeat_p (e : Status) (t : Rgb) (s : State) : (countBeat e t s).p = s.p := rfl
@[simp] theorem countBeat_rem (e : Status) (t : Rgb) (s : State) : (countBeat e t s).rem = s.rem - 1 := rfl
@[simp] theorem countBeat_berr (e : Status) (t : Rgb) (s : State) :
    (countBeat e t s).berr = if lastBeat s then false else beatBerr e s := rfl
@[simp] theorem countBeat_cmd (e : Status) (t : Rgb) (s : State) : (countBeat e t s).cmd = s.cmd := rfl
@[simp] theorem countBeat_rsp (e : Status) (t : Rgb) (s : State) :
    (countBeat e t s).rsp = s.rsp ++ [responseWord ⟨e, 3, lastBeat s, lastBeat s && beatBerr e s, t⟩] := rfl
@[simp] theorem countBeat_rspReady (e : Status) (t : Rgb) (s : State) : (countBeat e t s).rspReady = s.rspReady := rfl

@[simp] theorem assertReset_rspReady (s : State) : (assertReset s).rspReady = s.rspReady := rfl
@[simp] theorem hostAct_push_mode (w : Word) (s : State) : (hostAct (.push w) s).mode = s.mode := by simp only [hostAct]; split <;> rfl
@[simp] theorem hostAct_push_p (w : Word) (s : State) : (hostAct (.push w) s).p = s.p := by simp only [hostAct]; split <;> rfl
@[simp] theorem hostAct_push_rem (w : Word) (s : State) : (hostAct (.push w) s).rem = s.rem := by simp only [hostAct]; split <;> rfl
@[simp] theorem hostAct_push_berr (w : Word) (s : State) : (hostAct (.push w) s).berr = s.berr := by simp only [hostAct]; split <;> rfl
@[simp] theorem hostAct_push_rsp (w : Word) (s : State) : (hostAct (.push w) s).rsp = s.rsp := by simp only [hostAct]; split <;> rfl
@[simp] theorem hostAct_push_rspReady (w : Word) (s : State) : (hostAct (.push w) s).rspReady = s.rspReady := by
  simp only [hostAct]; split <;> rfl
@[simp] theorem hostAct_take (s : State) : hostAct .take s = { s with rsp := s.rsp.tail } := rfl
@[simp] theorem hostAct_setReady (r : Bool) (s : State) : hostAct (.setReady r) s = { s with rspReady := r } := rfl
@[simp] theorem hostAct_reset (s : State) : hostAct .reset s = assertReset s := rfl

end Sys2Proof.Machine
end

