-- ==== Sys2Proof/Laws/Ops.lean ====
section
/-! SUPPORT. What each shared operation and each meaning can do, said once: later proofs cite these and unfold nothing. -/

namespace Sys2Proof.Machine

theorem cmdPop_eq_some {s t : State} {w : Word} (h : cmdPop s = some (w, t)) :
    s.rspReady = true ∧ ∃ ws, s.cmd = w :: ws ∧ t = { s with cmd := ws } := by
  unfold cmdPop at h
  split at h
  · rename_i hr hc
    cases h
    exact ⟨hr, _, hc, rfl⟩
  · cases h
  · cases h

theorem cmdPop_of_ready {s : State} {w : Word} {ws : List Word} (hr : s.rspReady = true) (hc : s.cmd = w :: ws) :
    cmdPop s = some (w, { s with cmd := ws }) := by
  simp [cmdPop, hr, hc]

theorem cmdPop_eq_none {s : State} (h : s.rspReady = false ∨ s.cmd = []) : cmdPop s = none := by
  unfold cmdPop
  split <;> simp_all

/-- What one step can do: wait without a change, or execute the popped word. -/
theorem step_cases (s : State) :
    (step s = .next s ∧ (s.rspReady = false ∨ s.cmd = [])) ∨
      ∃ w ws, s.rspReady = true ∧ s.cmd = w :: ws ∧ step s = execute w { s with cmd := ws } := by
  cases hr : s.rspReady with
  | false => exact .inl ⟨by simp [step, cmdPop_eq_none (.inl hr)], .inl rfl⟩
  | true =>
    cases hc : s.cmd with
    | nil => exact .inl ⟨by simp [step, cmdPop_eq_none (.inr hc)], .inr rfl⟩
    | cons w ws =>
      refine .inr ⟨w, ws, rfl, rfl, ?_⟩
      rw [← hr, step, cmdPop_of_ready hr hc]

/-- When `CMD` accepts a word. -/
theorem cmdReady_iff {s : State} :
    cmdReady s = true ↔ (s.rspReady = true ∧ s.cmd = [] ∧ s.rsp = []) ∨ outstanding s < acceptAhead := by
  simp [cmdReady, and_assoc]

/-- What an offered word does: it goes to the tail of `CMD`, or nothing changes. -/
theorem hostAct_push_eq (w : Word) (s : State) :
    hostAct (.push w) s = { s with cmd := s.cmd ++ (movedBy (.push w) s).accepted } := by
  simp only [hostAct, movedBy]
  split <;> simp

theorem depthOfField_eq_some {d : BitVec 5} {x : BitDepth} : depthOfField d = some x ↔ d.toNat = depthBits x := by
  cases x <;> revert d <;> decide

theorem depthOfField_eq_none {d : BitVec 5} :
    depthOfField d = none ↔ ¬ (d.toNat = 8 ∨ d.toNat = 10 ∨ d.toNat = 12 ∨ d.toNat = 16) := by
  revert d
  decide

/-- With the default sets every one of the four depths is accepted, as input and as output. -/
theorem acceptedDepth_default (d : BitVec 5) : acceptedDepth depthsDefault d = depthOfField d := by
  revert d
  decide

theorem spaceOfCode_eq_none {c : BitVec 3} : spaceOfCode c = none ↔ c = 7 := by
  revert c
  decide

theorem spaceOfCode_spaceCode (x : ColorSpace) : spaceOfCode (spaceCode x) = some x := by
  cases x <;> rfl

/-- What the parameter check can answer under the default configuration, and when. -/
theorem checkParams_cfg (space : BitVec 3) (range : BitVec 1) (din dout : BitVec 5) :
    (checkParams cfg space range din dout = .error .invalidBitDepth ∧
        (depthOfField din = none ∨ depthOfField dout = none)) ∨
      (checkParams cfg space range din dout = .error .reservedColorSpace ∧ space = 7 ∧
        depthOfField din ≠ none ∧ depthOfField dout ≠ none) ∨
      ∃ sp di dd, checkParams cfg space range din dout = .ok ⟨sp, rangeOfCode range, di, dd⟩ ∧
        spaceOfCode space = some sp ∧ depthOfField din = some di ∧ depthOfField dout = some dd := by
  have e1 : acceptedDepth cfg.depthsIn din = depthOfField din := acceptedDepth_default din
  have e2 : acceptedDepth cfg.depthsOut dout = depthOfField dout := acceptedDepth_default dout
  unfold checkParams
  rw [e1, e2]
  cases h1 : depthOfField din with
  | none => simp
  | some di =>
    cases h2 : depthOfField dout with
    | none => simp
    | some dd =>
      cases h3 : spaceOfCode space with
      | none => simp [spaceOfCode_eq_none.mp h3]
      | some sp => simp

/-- Under the default policy a conversion is never refused: it gives a pixel or SampleOutOfRange. -/
theorem convStatus_cfg (q : Params) (y cb cr : Nat) :
    convStatus cfg q y cb cr =
      .ok (if max3 y cb cr > 2 ^ depthBits q.din - 1 then (.sampleOutOfRange, noRgb)
           else (.ok, scaleRgb (unitRgb cfg q.space q.range q.din y cb cr) q.dout)) := by
  unfold convStatus conv
  split <;> rename_i h <;> split at h <;> simp_all [cfg]

theorem convStatus_ok (q : Params) (y cb cr : Nat) : ∃ r, convStatus cfg q y cb cr = .ok r :=
  ⟨_, convStatus_cfg q y cb cr⟩

/-- What CVT can do. -/
theorem execCvt_cases (y cb cr : Field16) (space : BitVec 3) (range : BitVec 1) (din dout : BitVec 5) (s : State) :
    (s.mode = .batch ∧ execCvt y cb cr space range din dout s = .next (abortBatch 1 s)) ∨
      (s.mode = .idle ∧ ∃ e, checkParams cfg space range din dout = .error e ∧
        execCvt y cb cr space range din dout s = .next (failCommand e 1 s)) ∨
      (s.mode = .idle ∧ ∃ q st t, checkParams cfg space range din dout = .ok q ∧
        convStatus cfg q y.toNat cb.toNat cr.toNat = .ok (st, t) ∧
        execCvt y cb cr space range din dout s = .next (respond ⟨st, 1, false, false, t⟩ s)) := by
  unfold execCvt
  cases hm : s.mode with
  | batch => simp
  | idle =>
    cases hq : checkParams cfg space range din dout with
    | error e => simp
    | ok q =>
      obtain ⟨⟨st, t⟩, hc⟩ := convStatus_ok q y.toNat cb.toNat cr.toNat
      exact .inr (.inr ⟨rfl, q, st, t, rfl, hc, by simp only [hc]⟩)

/-- What PLANE can do. -/
theorem execPlane_cases (ly lcb lcr : Field16) (space : BitVec 3) (range : BitVec 1) (din dout : BitVec 5) (s : State) :
    (s.mode = .batch ∧ execPlane ly lcb lcr space range din dout s = .next (abortBatch 2 s)) ∨
      (s.mode = .idle ∧ ∃ e, checkParams cfg space range din dout = .error e ∧
        execPlane ly lcb lcr space range din dout s = .next (failCommand e 2 s)) ∨
      (s.mode = .idle ∧ ∃ q, checkParams cfg space range din dout = .ok q ∧
        ((¬ (ly = lcb ∧ lcb = lcr) ∧
            execPlane ly lcb lcr space range din dout s = .next (failCommand .planeLengthMismatch 2 s)) ∨
          ((ly = lcb ∧ lcb = lcr) ∧ ly = 0 ∧
            execPlane ly lcb lcr space range din dout s = .next (respond ⟨.ok, 2, true, false, noRgb⟩ s)) ∨
          ((ly = lcb ∧ lcb = lcr) ∧ ly ≠ 0 ∧
            execPlane ly lcb lcr space range din dout s =
              .next (openBatch (packParams space range din dout) ly s)))) := by
  unfold execPlane
  cases hm : s.mode with
  | batch => exact .inl ⟨rfl, rfl⟩
  | idle =>
    cases hq : checkParams cfg space range din dout with
    | error e => exact .inr (.inl ⟨rfl, e, rfl, rfl⟩)
    | ok q =>
      refine .inr (.inr ⟨rfl, q, rfl, ?_⟩)
      by_cases hl : ly = lcb ∧ lcb = lcr
      · by_cases h0 : ly = 0
        · exact .inr (.inl ⟨hl, h0, by simp only [if_neg (not_not_intro hl), if_pos h0]⟩)
        · exact .inr (.inr ⟨hl, h0, by simp only [if_neg (not_not_intro hl), if_neg h0]⟩)
      · exact .inl ⟨hl, by simp only [if_pos hl]⟩

/-- What DATA can do. -/
theorem execData_cases (y cb cr : Field16) (rsv : BitVec 14) (s : State) :
    (s.mode = .idle ∧ execData y cb cr rsv s = .next (failCommand .sequenceError 3 s)) ∨
      (s.mode = .batch ∧ rsv ≠ 0 ∧ execData y cb cr rsv s = .next (countBeat .illegalCommand noRgb s)) ∨
      (s.mode = .batch ∧ rsv = 0 ∧ ∃ e, paramsOfP cfg s.p = .error e ∧
        execData y cb cr rsv s = .fault .illegalParameters) ∨
      (s.mode = .batch ∧ rsv = 0 ∧ ∃ q st t, paramsOfP cfg s.p = .ok q ∧
        convStatus cfg q y.toNat cb.toNat cr.toNat = .ok (st, t) ∧
        execData y cb cr rsv s = .next (countBeat st t s)) := by
  unfold execData
  cases hm : s.mode with
  | idle => exact .inl ⟨rfl, rfl⟩
  | batch =>
    refine .inr ?_
    by_cases h0 : rsv = 0
    · cases hq : paramsOfP cfg s.p with
      | error e => exact .inr (.inl ⟨rfl, h0, e, rfl, by simp only [if_neg (not_not_intro h0)]⟩)
      | ok q =>
        obtain ⟨⟨st, t⟩, hc⟩ := convStatus_ok q y.toNat cb.toNat cr.toNat
        exact .inr (.inr ⟨rfl, h0, q, st, t, rfl, hc, by simp only [if_neg (not_not_intro h0), hc]⟩)
    · exact .inl ⟨rfl, h0, by simp only [if_pos h0]⟩

/-- What a word that is no command can do. -/
theorem execIllegal_cases (s : State) :
    (s.mode = .batch ∧ execIllegal s = .next (abortBatch 0 s)) ∨
      (s.mode = .idle ∧ execIllegal s = .next (failCommand .illegalCommand 0 s)) := by
  unfold execIllegal
  cases hm : s.mode <;> simp

end Sys2Proof.Machine
end

