-- ==== Sys2Proof/Laws/PerInstr.lean ====
section
/-! SUPPORT. Facts about a command as syntax, one lemma per constructor. -/

namespace Sys2Proof.Laws.EncodeMatchesTable

/-- The mask of a command's row in spec/opcode_table.json. -/
def tableMask : Instr → Word
  | .cvt _ _ _ _ _ _ _ => 0xC000000000000000
  | .plane _ _ _ _ _ _ _ => 0xC000000000000000
  | .data _ _ _ _ => 0xC000000000003FFF

/-- The match value of a command's row in spec/opcode_table.json. -/
def tableMatch : Instr → Word
  | .cvt _ _ _ _ _ _ _ => 0x4000000000000000
  | .plane _ _ _ _ _ _ _ => 0x8000000000000000
  | .data _ _ _ _ => 0xC000000000000000

/-- A well-formed command's word meets its row of the opcode table. -/
def Statement (i : Instr) : Prop :=
  i.wellFormed = true → encode i &&& tableMask i = tableMatch i

/-- Masking works part by part on C64 words. -/
theorem c64_and (op op' : BitVec 2) (a a' b b' c c' : Field16) (low low' : BitVec 14) :
    c64 op a b c low &&& c64 op' a' b' c' low' = c64 (op &&& op') (a &&& a') (b &&& b') (c &&& c') (low &&& low') := by
  have h : (((op ++ a ++ b ++ c ++ low) &&& (op' ++ a' ++ b' ++ c' ++ low')) : BitVec (2 + 16 + 16 + 16 + 14)) =
      (op &&& op') ++ (a &&& a') ++ (b &&& b') ++ (c &&& c') ++ (low &&& low') := by
    simp only [BitVec.and_append]
  exact h

theorem opMask_eq : (0xC000000000000000 : Word) = c64 3 0 0 0 0 := by decide

theorem dataMask_eq : (0xC000000000003FFF : Word) = c64 3 0 0 0 0x3FFF := by decide

theorem cvt (y cb cr : Field16) (space : BitVec 3) (range : BitVec 1) (din dout : BitVec 5) :
    Statement (.cvt y cb cr space range din dout) := by
  intro _
  rw [encode, tableMask, tableMatch, opMask_eq, c64_and]
  simp [c64]

theorem plane (ly lcb lcr : Field16) (space : BitVec 3) (range : BitVec 1) (din dout : BitVec 5) :
    Statement (.plane ly lcb lcr space range din dout) := by
  intro _
  rw [encode, tableMask, tableMatch, opMask_eq, c64_and]
  simp [c64]

theorem data (y cb cr : Field16) (rsv : BitVec 14) : Statement (.data y cb cr rsv) := by
  intro h
  have hr : rsv = 0 := by simpa [Instr.wellFormed] using h
  subst hr
  rw [encode, tableMask, tableMatch, dataMask_eq, c64_and]
  simp [c64]

end Sys2Proof.Laws.EncodeMatchesTable
end

