-- ==== Sys2Proof/Laws/Words.lean ====
section
/-! SUPPORT. Command and response words as numbers, and the fields of a response word read back. -/

namespace Sys2Proof.Machine

theorem toNat_field (w : Word) (lo len : Nat) : (field w lo len).toNat = w.toNat / 2 ^ lo % 2 ^ len := by
  simp [field, BitVec.extractLsb'_toNat, Nat.shiftRight_eq_div_pow]

theorem toNat_append_mul {m n : Nat} (x : BitVec m) (y : BitVec n) : (x ++ y).toNat = x.toNat * 2 ^ n + y.toNat := by
  rw [BitVec.toNat_append, Nat.shiftLeft_eq, Nat.mul_comm, Nat.two_pow_add_eq_or_of_lt y.isLt]

theorem toNat_c64 (op : BitVec 2) (a b c : Field16) (low : BitVec 14) :
    (c64 op a b c low).toNat =
      op.toNat * 2 ^ 62 + a.toNat * 2 ^ 46 + b.toNat * 2 ^ 30 + c.toNat * 2 ^ 14 + low.toNat := by
  have h : (c64 op a b c low).toNat = ((((op.toNat * 2 ^ 16 + a.toNat) * 2 ^ 16 + b.toNat) * 2 ^ 16 + c.toNat) * 2 ^ 14
      + low.toNat) := by
    have e : c64 op a b c low = ((op ++ a ++ b ++ c ++ low : BitVec (2 + 16 + 16 + 16 + 14)) : BitVec (2 + 16 + 16 + 16 + 14)) := rfl
    rw [e]
    simp only [toNat_append_mul]
  rw [h]
  ring

theorem toNat_packParams (space : BitVec 3) (range : BitVec 1) (din dout : BitVec 5) :
    (packParams space range din dout).toNat =
      space.toNat * 2 ^ 11 + range.toNat * 2 ^ 10 + din.toNat * 2 ^ 5 + dout.toNat := by
  have e : packParams space range din dout = (space ++ range ++ din ++ dout : BitVec (3 + 1 + 5 + 5)) := rfl
  rw [e]
  simp only [toNat_append_mul]
  omega

theorem toNat_responseWord (x : Response) :
    (responseWord x).toNat =
      (statusCode x.status).toNat * 2 ^ 60 + x.op.toNat * 2 ^ 58 + x.last.toNat * 2 ^ 57 + x.berr.toNat * 2 ^ 56
        + (x.rgb.r % 2 ^ 16) * 2 ^ 32 + (x.rgb.g % 2 ^ 16) * 2 ^ 16 + x.rgb.b % 2 ^ 16 := by
  have e : responseWord x = (statusCode x.status ++ x.op ++ BitVec.ofBool x.last ++ BitVec.ofBool x.berr ++ (0 : BitVec 8)
    ++ BitVec.ofNat 16 x.rgb.r ++ BitVec.ofNat 16 x.rgb.g ++ BitVec.ofNat 16 x.rgb.b
      : BitVec (4 + 2 + 1 + 1 + 8 + 16 + 16 + 16)) := rfl
  rw [e]
  have h0 : (0 : BitVec 8).toNat = 0 := rfl
  simp only [toNat_append_mul, BitVec.toNat_ofBool, BitVec.toNat_ofNat, h0]
  ring

@[simp] theorem pSpace_packParams (space : BitVec 3) (range : BitVec 1) (din dout : BitVec 5) :
    pSpace (packParams space range din dout) = space := by
  apply BitVec.eq_of_toNat_eq
  have h := toNat_packParams space range din dout
  simp only [pSpace, BitVec.extractLsb'_toNat, Nat.shiftRight_eq_div_pow]
  omega

@[simp] theorem pRange_packParams (space : BitVec 3) (range : BitVec 1) (din dout : BitVec 5) :
    pRange (packParams space range din dout) = range := by
  apply BitVec.eq_of_toNat_eq
  have h := toNat_packParams space range din dout
  simp only [pRange, BitVec.extractLsb'_toNat, Nat.shiftRight_eq_div_pow]
  omega

@[simp] theorem pDin_packParams (space : BitVec 3) (range : BitVec 1) (din dout : BitVec 5) :
    pDin (packParams space range din dout) = din := by
  apply BitVec.eq_of_toNat_eq
  have h := toNat_packParams space range din dout
  simp only [pDin, BitVec.extractLsb'_toNat, Nat.shiftRight_eq_div_pow]
  omega

@[simp] theorem pDout_packParams (space : BitVec 3) (range : BitVec 1) (din dout : BitVec 5) :
    pDout (packParams space range din dout) = dout := by
  apply BitVec.eq_of_toNat_eq
  have h := toNat_packParams space range din dout
  simp only [pDout, BitVec.extractLsb'_toNat, Nat.shiftRight_eq_div_pow]
  omega

/-- The batch's parameters are checked exactly as the PLANE that opened it checked them. -/
@[simp] theorem paramsOfP_packParams (c : Config) (space : BitVec 3) (range : BitVec 1) (din dout : BitVec 5) :
    paramsOfP c (packParams space range din dout) = checkParams c space range din dout := by
  simp [paramsOfP]

theorem statusCode_toNat_le (e : Status) : (statusCode e).toNat ≤ 6 := by cases e <;> decide

theorem statusCode_eq_zero {e : Status} : statusCode e = 0 ↔ e = .ok := by cases e <;> decide

@[simp] theorem rspStatus_responseWord (x : Response) : rspStatus (responseWord x) = statusCode x.status := by
  apply BitVec.eq_of_toNat_eq
  have h := toNat_responseWord x
  have hl : x.last.toNat ≤ 1 := Bool.toNat_le _
  have hb : x.berr.toNat ≤ 1 := Bool.toNat_le _
  rw [rspStatus, toNat_field]
  omega

@[simp] theorem rspOp_responseWord (x : Response) : rspOp (responseWord x) = x.op := by
  apply BitVec.eq_of_toNat_eq
  have h := toNat_responseWord x
  have hl : x.last.toNat ≤ 1 := Bool.toNat_le _
  have hb : x.berr.toNat ≤ 1 := Bool.toNat_le _
  rw [rspOp, toNat_field]
  omega

@[simp] theorem rspLast_responseWord (x : Response) : rspLast (responseWord x) = BitVec.ofBool x.last := by
  apply BitVec.eq_of_toNat_eq
  have h := toNat_responseWord x
  have hl : x.last.toNat ≤ 1 := Bool.toNat_le _
  have hb : x.berr.toNat ≤ 1 := Bool.toNat_le _
  rw [rspLast, toNat_field, BitVec.toNat_ofBool]
  omega

@[simp] theorem rspBerr_responseWord (x : Response) : rspBerr (responseWord x) = BitVec.ofBool x.berr := by
  apply BitVec.eq_of_toNat_eq
  have h := toNat_responseWord x
  have hl : x.last.toNat ≤ 1 := Bool.toNat_le _
  have hb : x.berr.toNat ≤ 1 := Bool.toNat_le _
  rw [rspBerr, toNat_field, BitVec.toNat_ofBool]
  omega

@[simp] theorem rspReserved_responseWord (x : Response) : rspReserved (responseWord x) = 0 := by
  apply BitVec.eq_of_toNat_eq
  have h := toNat_responseWord x
  rw [rspReserved, toNat_field]
  simp only [BitVec.toNat_zero, BitVec.ofNat_eq_ofNat]
  omega

@[simp] theorem rspR_responseWord (x : Response) : rspR (responseWord x) = BitVec.ofNat 16 x.rgb.r := by
  apply BitVec.eq_of_toNat_eq
  have h := toNat_responseWord x
  rw [rspR, toNat_field, BitVec.toNat_ofNat]
  omega

@[simp] theorem rspG_responseWord (x : Response) : rspG (responseWord x) = BitVec.ofNat 16 x.rgb.g := by
  apply BitVec.eq_of_toNat_eq
  have h := toNat_responseWord x
  rw [rspG, toNat_field, BitVec.toNat_ofNat]
  omega

@[simp] theorem rspB_responseWord (x : Response) : rspB (responseWord x) = BitVec.ofNat 16 x.rgb.b := by
  apply BitVec.eq_of_toNat_eq
  have h := toNat_responseWord x
  rw [rspB, toNat_field, BitVec.toNat_ofNat]
  omega

end Sys2Proof.Machine
end

