-- ==== Sys2Proof/Tests/Slice0.lean ====
section
/-! SUPPORT. Tests: expected values are the spec's own (95_test_vectors.md, the worked examples of the rules) or written out by hand
from its encoding; and one witness for each statement with hypotheses, a concrete state and operands that meet all of them. -/

namespace Sys2Proof.Tests
open Sys2Proof Sys2Proof.Machine

/-! ### Well-formedness: each check refuses an ill-formed term -/

theorem test_wellFormed_refuses_reserved_data_bits : (Instr.data 1 2 3 1).wellFormed = false := by decide
theorem test_goodEncoding_refuses_reserved_data_bits : (Instr.data 1 2 3 0x2000).goodEncoding = false := by decide
theorem test_goodEncoding_refuses_space_seven : (Instr.cvt 1 2 3 7 0 8 8).goodEncoding = false := by decide
theorem test_goodEncoding_refuses_input_depth : (Instr.cvt 1 2 3 0 0 9 8).goodEncoding = false := by decide
theorem test_goodEncoding_refuses_output_depth : (Instr.plane 1 1 1 0 0 8 14).goodEncoding = false := by decide
theorem test_goodEncoding_accepts : (Instr.plane 1 1 1 6 1 16 12).goodEncoding = true := by decide

/-! ### Decoding: words written out bit by bit from 30_encoding.md R45 and R46, op a b c space range din dout -/

/-- CVT 500, 400, 700, BT709, Full, 10, 8. -/
theorem test_decode_cvt :
    decode 0b01_0000000111110100_0000000110010000_0000001010111100_001_1_01010_01000 = .ok (.cvt 500 400 700 1 1 10 8) := by
  decide

/-- PLANE 3, 5, 7, YCgCo, Studio, 12, 16. -/
theorem test_decode_plane :
    decode 0b10_0000000000000011_0000000000000101_0000000000000111_101_0_01100_10000 = .ok (.plane 3 5 7 5 0 12 16) := by
  decide

/-- DATA 145, 54, 34, and the same with reserved bits set, which still decodes. -/
theorem test_decode_data :
    decode 0b11_0000000010010001_0000000000110110_0000000000100010_000_0_00000_00000 = .ok (.data 145 54 34 0) ∧
      decode 0b11_0000000010010001_0000000000110110_0000000000100010_100_0_00000_00001 = .ok (.data 145 54 34 0x2001) := by
  decide

/-- Opcode 0b00 is no command, whatever the other bits are. -/
theorem test_decode_illegal :
    decode 0b00_1111111111111111_1111111111111111_1111111111111111_111_1_11111_11111 = .error .illegalOp := by
  decide

theorem test_decodeTableWord : decodeTableWord 64 0xC024400D80088000 = some (.data 145 54 34 0) ∧ decodeTableWord 64 0 = none := by
  decide

theorem test_withFetchWord_runs :
    step (State.reset.withFetchWord 64 0x403AC02000200108) = .next { State.reset with rsp := [0x040000FF00FF00FF] } := rfl

theorem test_assembleLine :
    assembleLine "CVT 235, 128, 128, BT601, Studio, 8, 8 ; white" = some [0x403AC02000200108] ∧
      assembleLine ".word 0xC080009600640001" = some [0xC080009600640001] ∧ assembleLine "; nothing" = some [] ∧
      assembleLine "DATA 65536, 0, 0" = none := by
  refine ⟨?_, ?_, ?_, ?_⟩ <;> rfl

/-! ### One step of each command -/

/-- The BT709 Full batch of 44_converter_commands.md R124, with `n` beats to come. -/
def openState (n : BitVec 16) : State := { State.reset with mode := .batch, p := 0xD08, rem := n }

/-- CVT 81, 90, 240, BT601, Studio, 8, 8 (95_test_vectors.md section 2.3): blue falls below 0 and clamps. -/
theorem test_cvt_clamps :
    execute (encode (.cvt 81 90 240 0 0 8 8)) State.reset = .next { State.reset with rsp := [0x040000FE00000000] } := rfl

theorem test_cvt_aborts_a_batch :
    exec (.cvt 235 128 128 0 0 8 8) (openState 3) = .next { State.reset with p := 0xD08, rsp := [0x6700000000000000] } := rfl

theorem test_plane_opens :
    exec (.plane 3 3 3 1 1 8 8) State.reset = .next { openState 3 with rsp := [0x0800000000000000] } := rfl

theorem test_plane_mismatch :
    exec (.plane 2 2 3 0 0 8 8) State.reset = .next { State.reset with rsp := [0x2800000000000000] } := rfl

theorem test_data_converts :
    exec (.data 81 90 240 0) (openState 3) = .next { openState 2 with rsp := [0x0C0000FF0024000A] } := rfl

theorem test_data_closes :
    exec (.data 41 240 110 0) (openState 1) = .next { State.reset with p := 0xD08, rsp := [0x0E00000D001C00F9] } := rfl

theorem test_illegal_word : execIllegal State.reset = .next { State.reset with rsp := [0x5000000000000000] } := rfl

/-- A full CMD and a full RSP at once: the block waits. -/
theorem test_step_waits : step { openState 1 with cmd := [0], rspReady := false } =
    .next { openState 1 with cmd := [0], rspReady := false } := rfl

/-- `CMD` accepts a word right after reset; with more outstanding than the free bound, it accepts none. -/
theorem test_push_accepted : hostAct (.push 7) State.reset = { State.reset with cmd := [7] } := rfl

/-- A state with as many outstanding responses as the block allows, whatever number that is. -/
def stalled : State := { State.reset with rsp := List.replicate (max acceptAhead 1) 0 }

theorem test_push_refused : hostAct (.push 7) stalled = stalled := by
  have h : ¬ cmdReady stalled = true := by
    rw [cmdReady_iff]
    rintro (h | h)
    · exact absurd (congrArg List.length h.2.2) (by simp [stalled])
    · simp [outstanding, stalled, State.reset] at h
  simp only [hostAct, if_neg h]

/-- A rejected PLANE fails the call with its status, and nothing but the PLANE is sent (44_converter_commands.md R129). -/
theorem test_convertPlane_rejected :
    convertPlane ⟨7, 0, 8, 8⟩ [1] [2] [3] State.reset = some (⟨.failed 4, [0x8000400040007908]⟩, State.reset) := rfl

/-! ### Witnesses: the hypotheses of each statement that has some, met at boundary values -/

theorem witness_EncodingAndDecodingAreInverse : decode 0xFFFFC00000004000 = .ok (.data 65535 0 1 0) := by decide

theorem witness_DecodeReadsTheFields :
    wordBits 0x3FFFFFFFFFFFFFFF 63 62 = 0 ∧ wordBits 0x4000000000000000 63 62 = 1 ∧ wordBits 0xBFFFFFFFFFFFFFFF 63 62 = 2 ∧
      wordBits 0xC000000000000000 63 62 = 3 := by decide

theorem witness_ResponseWordLayout :
    let x : Response := ⟨.ok, 3, true, true, ⟨65535, 0, 65535⟩⟩
    x.rgb.r < 2 ^ 16 ∧ x.rgb.g < 2 ^ 16 ∧ x.rgb.b < 2 ^ 16 := by decide

/-- A command of the syntax with each operand read, and the texts of two lines of it, one with a comment. -/
theorem witness_AssemblerEmitsWellFormedCommands :
    assembleCommand "DATA".toList ["0xFFFF".toList, "0".toList, "1".toList] = some (.data 65535 0 1 0) ∧
      numberField 16 "0xFFFF".toList = some 65535 ∧ numberField 5 "16".toList = some 16 ∧ numberField 5 "32".toList = none ∧
      spaceOperand "YCgCo".toList = some 5 ∧ spaceOperand "7".toList = some 7 ∧ rangeOperand "Full".toList = some 1 ∧
      assembleLine "DATA 0xFFFF, 0, 1;x" = some [0xFFFFC00000004000] :=
  ⟨rfl, rfl, rfl, rfl, rfl, rfl, rfl, rfl⟩

theorem witness_AssemblerEmitsWellFormedCommands_lines :
    PlainText "DATA".toList ∧ "DATA".toList ≠ ".word".toList ∧ PlainText "0xFFFF".toList ∧
      (∀ l ∈ ["0".toList, "1".toList], PlainText l) ∧ PlainText "0".toList ∧ LineEnd [] ∧ LineEnd ";x".toList := by
  simp [PlainText, LineEnd]

theorem witness_StepRunsTheDecodedCommand :
    let s := { State.reset with cmd := [0x403AC02000200108, 0] }
    s.rspReady = true ∧ s.cmd = 0x403AC02000200108 :: [0] ∧ decode 0x403AC02000200108 = .ok (.cvt 235 128 128 0 0 8 8) := by
  decide

theorem witness_StepAnswersAnIllegalWord :
    let s := { openState 1 with cmd := [0x3FFFFFFFFFFFFFFF] }
    s.rspReady = true ∧ s.cmd = 0x3FFFFFFFFFFFFFFF :: [] ∧ decode 0x3FFFFFFFFFFFFFFF = .error .illegalOp := by decide

theorem witness_StepWaitsUnchanged : { openState 1 with rspReady := false }.rspReady = false ∧ State.reset.cmd = [] := by decide

theorem openState_inv : BatchInv (openState 1) ∧ BatchInv (openState 65535) := by decide

theorem witness_StepKeepsTheBatchInvariant :
    BatchInv { openState 1 with cmd := [0xC00A403C001B8000] } ∧
      step { openState 1 with cmd := [0xC00A403C001B8000] } =
        .next { State.reset with p := 0xD08, rsp := [0x0E00000D001C00F9] } := ⟨by decide, rfl⟩

theorem witness_GoodStatesNeverStop : BatchInv { openState 65535 with cmd := [0xC00A403C001B8000] } := by decide

/-- A good response with a pixel, and the good response of an accepted PLANE. -/
theorem goodResponses : GoodResponse 0x040000FF00FF00FF ∧ GoodResponse 0x0800000000000000 := by
  refine ⟨⟨rfl, ?_, ?_, ?_⟩, ⟨rfl, ?_, ?_, ?_⟩⟩ <;> decide

theorem witness_StepKeepsResponsesGood :
    ResponsesGood { State.reset with cmd := [0], rsp := [0x040000FF00FF00FF] } ∧
      step { State.reset with cmd := [0], rsp := [0x040000FF00FF00FF] } =
        .next { State.reset with rsp := [0x040000FF00FF00FF, 0x5000000000000000] } :=
  ⟨List.forall_mem_singleton.mpr goodResponses.1, rfl⟩

theorem witness_HostActionsKeepTheInvariants :
    BatchInv { openState 1 with rsp := [0x0800000000000000] } ∧ ResponsesGood { openState 1 with rsp := [0x0800000000000000] } :=
  ⟨openState_inv.1, List.forall_mem_singleton.mpr goodResponses.2⟩

theorem witness_idle : State.reset.mode = .idle := rfl

/-- Both clauses of the check, and the four outcomes of PLANE, occur. -/
theorem witness_CvtAndPlaneInIdleMode :
    State.reset.mode = .idle ∧ checkParams cfg 6 1 16 8 = .ok ⟨.identity, .full, .d16, .d8⟩ ∧
      checkParams cfg 7 1 16 8 = .error .reservedColorSpace ∧ checkParams cfg 7 0 0 8 = .error .invalidBitDepth := by decide

theorem witness_DataInBatchMode :
    BatchInv (openState 1) ∧ (openState 1).mode = .batch ∧ BatchInv (openState 65535) ∧ (openState 65535).mode = .batch := by decide

theorem witness_PlaneOpensABatch :
    State.reset.mode = .idle ∧ (1 : Field16) ≠ 0 ∧ (65535 : Field16) ≠ 0 ∧ (6 : BitVec 3).toNat ≤ 6 ∧
      LegalDepth (8 : BitVec 5).toNat ∧ LegalDepth (10 : BitVec 5).toNat ∧ LegalDepth (12 : BitVec 5).toNat ∧
      LegalDepth (16 : BitVec 5).toNat := by decide

theorem witness_CvtAnswersTheExactPixel :
    let q : Params := ⟨.bt709, .full, .d10, .d16⟩
    State.reset.mode = .idle ∧ (1023 : Field16).toNat ≤ 2 ^ depthBits q.din - 1 ∧ (0 : Field16).toNat ≤ 2 ^ depthBits q.din - 1 := by
  decide

theorem witness_DataAnswersTheExactPixel :
    let q : Params := ⟨.bt709, .full, .d8, .d8⟩
    (openState 2).mode = .batch ∧ 2 ≤ (openState 2).rem.toNat ∧
      (openState 2).p = packParams (spaceCode q.space) (rangeCode q.range) (depthField q.din) (depthField q.dout) ∧
      (255 : Field16).toNat ≤ 2 ^ depthBits q.din - 1 := by decide

theorem witness_WordsOutOfSequence :
    State.reset.mode = .idle ∧ wordBits 0xC000000000003FFF 63 62 = 3 ∧ (openState 1).mode = .batch ∧
      wordBits 0xBFFFFFFFFFFFFFFF 63 62 ≠ 3 := by decide

theorem witness_IllegalCommandResponses :
    State.reset.mode = .idle ∧ wordBits 0x3FFFFFFFFFFFFFFF 63 62 = 0 ∧ (openState 1).mode = .batch ∧
      wordBits 0xC000000000000001 63 62 = 3 ∧ wordBits 0xC000000000000001 13 0 ≠ 0 ∧ wordBits 0xC000000000002000 13 0 ≠ 0 := by
  decide

theorem witness_IllegalCommandResponses_out_of_mode :
    execute 0x3FFFFFFFFFFFFFFF (openState 1) = .next { State.reset with p := 0xD08, rsp := [0x6300000000000000] } ∧
      execute 0xC000000000000001 State.reset = .next { State.reset with rsp := [0x6C00000000000000] } := ⟨rfl, rfl⟩

/-- Depth fields 7 and 17, beside the legal 8 and 16. -/
theorem witness_InvalidBitDepthResponses :
    wordBits 0x40000000000000E8 63 62 = 1 ∧ wordBits 0x40000000000000E8 9 5 = 7 ∧ ¬ LegalDepth 7 ∧
      wordBits 0x8000000000000111 63 62 = 2 ∧ wordBits 0x8000000000000111 4 0 = 17 ∧ ¬ LegalDepth 17 := by decide

/-- A CVT with illegal depths in BATCH, and in IDLE a CVT with two legal depths and an illegal colour space. -/
theorem witness_InvalidBitDepthResponses_other_words :
    (openState 1).mode = .batch ∧
      execute 0x40000000000000E8 (openState 1) = .next { State.reset with p := 0xD08, rsp := [0x6700000000000000] } ∧
      LegalDepth (wordBits 0x400040008000F908 9 5) ∧ LegalDepth (wordBits 0x400040008000F908 4 0) ∧
      execute 0x400040008000F908 State.reset = .next { State.reset with rsp := [0x4400000000000000] } :=
  ⟨rfl, rfl, by decide, by decide, rfl⟩

/-- A word that is neither CVT nor PLANE and is answered. -/
theorem witness_statuses_of_other_words :
    ¬ (wordBits 0xC000000000000000 63 62 = 1 ∨ wordBits 0xC000000000000000 63 62 = 2) ∧ wordBits 0xC000000000000000 63 62 ≠ 2 ∧
      execute 0xC000000000000000 State.reset = .next { State.reset with rsp := [0x6C00000000000000] } :=
  ⟨by decide, by decide, rfl⟩

theorem witness_ReservedColorSpaceResponses :
    wordBits 0x400040008000F908 63 62 = 1 ∧ LegalDepth (wordBits 0x400040008000F908 9 5) ∧
      LegalDepth (wordBits 0x400040008000F908 4 0) ∧ wordBits 0x400040008000F908 13 11 = 7 := by decide

/-- A PLANE with space 7 in BATCH; in IDLE a PLANE with space 7 and an illegal depth, and a CVT with space 6. -/
theorem witness_ReservedColorSpaceResponses_other_words :
    execute 0x8000400040007908 (openState 1) = .next { State.reset with p := 0xD08, rsp := [0x6B00000000000000] } ∧
      ¬ LegalDepth (wordBits 0x8000000000003911 4 0) ∧ wordBits 0x8000000000003911 13 11 = 7 ∧
      execute 0x8000000000003911 State.reset = .next { State.reset with rsp := [0x1800000000000000] } ∧
      wordBits 0x4000000000003108 13 11 ≠ 7 ∧
      execute 0x4000000000003108 State.reset = .next { State.reset with rsp := [0x0400000000000000] } :=
  ⟨rfl, by decide, by decide, rfl, by decide, rfl⟩

theorem witness_PlaneLengthMismatchResponses :
    wordBits 0x800080008000C108 63 62 = 2 ∧ LegalDepth (wordBits 0x800080008000C108 9 5) ∧
      LegalDepth (wordBits 0x800080008000C108 4 0) ∧ wordBits 0x800080008000C108 13 11 ≠ 7 ∧
      ¬ (wordBits 0x800080008000C108 61 46 = wordBits 0x800080008000C108 45 30 ∧
        wordBits 0x800080008000C108 45 30 = wordBits 0x800080008000C108 29 14) := by decide

/-- The first value out of range and the last one in range, for CVT and for DATA. -/
theorem witness_SampleOutOfRangeResponses :
    let q : Params := ⟨.bt709, .full, .d8, .d8⟩
    (openState 1).p = packParams (spaceCode q.space) (rangeCode q.range) (depthField q.din) (depthField q.dout) ∧
      2 ^ depthBits q.din - 1 < max (0 : Field16).toNat (max (256 : Field16).toNat (0 : Field16).toNat) ∧
      max (255 : Field16).toNat (max (255 : Field16).toNat (255 : Field16).toNat) ≤ 2 ^ depthBits q.din - 1 := by decide

theorem witness_SampleOutOfRangeResponses_in_range :
    exec (.cvt 255 128 128 (spaceCode .bt709) (rangeCode .full) (depthField .d8) (depthField .d8)) State.reset =
        .next { State.reset with rsp := [0x040000FF00FF00FF] } ∧
      exec (.data 255 128 128 0) (openState 2) = .next { openState 1 with rsp := [0x0C0000FF00FF00FF] } := ⟨rfl, rfl⟩

theorem witness_SampleOutOfRangeResponses_depth_16 :
    exec (.cvt 65535 32768 32768 0 1 16 8) State.reset = .next { State.reset with rsp := [0x040000FF00FF00FF] } ∧
      pDin { openState 2 with p := packParams 0 1 16 8 }.p = 16 ∧
      exec (.data 65535 32768 32768 0) { openState 2 with p := packParams 0 1 16 8 } =
        .next { openState 1 with p := packParams 0 1 16 8, rsp := [0x0C0000FF00FF00FF] } := ⟨rfl, rfl, rfl⟩

/-- Any state with the invariant serves: an idle one and an open one. -/
theorem witness_statements_on_every_word : BatchInv State.reset ∧ BatchInv (openState 1) := by decide

theorem witness_FailuresInIdleLeaveTheState :
    State.reset.mode = .idle ∧ execute 0 State.reset = .next { State.reset with rsp := [0x5000000000000000] } ∧
      { State.reset with rsp := [0x5000000000000000] }.rsp = State.reset.rsp ++ [0x5000000000000000] ∧
      rspStatus 0x5000000000000000 ≠ 0 := ⟨rfl, rfl, rfl, by decide⟩

/-- The four rows of `CommandFrames`, and the hypothesis of `EveryCommandAddsOneResponse` and
`BatchErrorFlagLeavesPixelsAlone`. -/
theorem witness_CommandFrames :
    exec (.cvt 235 128 128 0 0 8 8) State.reset = .next { State.reset with rsp := [0x040000FF00FF00FF] } ∧
      exec (.plane 3 3 3 1 1 8 8) State.reset = .next { openState 3 with rsp := [0x0800000000000000] } ∧
      exec (.data 41 240 110 0) (openState 1) = .next { State.reset with p := 0xD08, rsp := [0x0E00000D001C00F9] } ∧
      exec (.plane 3 3 3 1 1 8 8) (openState 1) = .next { State.reset with p := 0xD08, rsp := [0x6B00000000000000] } :=
  ⟨rfl, rfl, rfl, rfl⟩

theorem witness_NormProperties : (15 : Int) < 16 ∧ (0 : Int) < 65535 ∧ 65535 ≤ 65535 := by decide

theorem witness_MatrixIsTheSourceFormula :
    (⟨212, 87, 1000⟩ : KrKb).valid = true ∧ 0 < (normYCC 0 0 65535 .studio .d16).dy ∧ 0 < (normYCC 0 0 65535 .studio .d16).dc := by
  decide

theorem witness_MatrixIntermediateBounds : desc cfg .bt709 = .krKb ⟨2126, 722, 10000⟩ ∧ (65535 : Nat) ≤ 65535 := by decide

theorem witness_ScaleRoundsHalfUpAndClamps : 0 < (⟨-1, 510⟩ : Ratio).den := by decide

/-- The clauses of `ScaleProperties`: two ordered ratios, both ends of the exact points, a space, and a negative value. -/
theorem witness_ScaleProperties :
    (0 < (⟨1, 3⟩ : Ratio).den ∧ 0 < (⟨1, 2⟩ : Ratio).den ∧ ((1 : Int) : ℚ) / ((3 : Int) : ℚ) ≤ ((1 : Int) : ℚ) / ((2 : Int) : ℚ)) ∧
      ((0 : Int) ≤ 255 ∧ (255 : Int) ≤ 2 ^ depthBits .d8 - 1 ∧
        ((1 : Int) : ℚ) / ((1 : Int) : ℚ) = ((255 : Int) : ℚ) / (2 ^ depthBits .d8 - 1)) ∧
      ((0 : Int) ≤ 0 ∧ (0 : Int) ≤ 2 ^ depthBits .d8 - 1 ∧ ((0 : Int) : ℚ) / ((7 : Int) : ℚ) = ((0 : Int) : ℚ) / (2 ^ depthBits .d8 - 1)) ∧
      ColorSpace.ycgco ≠ .identity ∧ (⟨-1, 510⟩ : Ratio).num < 0 := by
  refine ⟨⟨by decide, by decide, by norm_num⟩, ⟨by decide, by decide, by norm_num [depthBits]⟩, ⟨by decide, by decide, by norm_num⟩,
    by decide, by decide⟩

theorem witness_IdentityThroughTheScaler :
    (255 : Nat) ≤ 2 ^ depthBits .d8 - 1 ∧ (0 : Nat) ≤ 2 ^ depthBits .d8 - 1 ∧ (65535 : Nat) ≤ 2 ^ depthBits .d16 - 1 := by decide

theorem witness_IdentityInvariant : (4095 : Nat) ≤ 2 ^ depthBits .d12 - 1 ∧ (0 : Nat) ≤ 2 ^ depthBits .d12 - 1 := by decide

theorem witness_GrayIsAchromatic :
    (⟨30, 11, 100⟩ : KrKb).valid = true ∧ 0 < (normYCC 255 128 128 .full .d8).dy ∧ 0 < (normYCC 255 128 128 .full .d8).dc ∧
      (normYCC 255 128 128 .full .d8).ncb = 0 ∧ (normYCC 255 128 128 .full .d8).ncr = 0 := by decide

theorem witness_GrayPixels :
    cfg.ktab.valid = true ∧ ColorSpace.bt709 ≠ .identity ∧ (1023 : Nat) ≤ 2 ^ depthBits .d10 - 1 := by decide

theorem witness_PixelsAreMonotoneInLuma :
    cfg.ktab.valid = true ∧ ColorSpace.bt601 ≠ .identity ∧ 81 ≤ 82 ∧
      conv { cfg with ktab := cfg.ktab } ⟨.bt601, .studio, .d8, .d8⟩ 81 90 240 = .rgb ⟨254, 0, 0⟩ ∧
      conv { cfg with ktab := cfg.ktab } ⟨.bt601, .studio, .d8, .d8⟩ 82 90 240 = .rgb ⟨255, 1, 0⟩ := by decide

theorem witness_BoundaryPixels : ColorSpace.ycgco ≠ .identity := by decide

theorem witness_PixelsAreInRange : conv cfg ⟨.bt601, .studio, .d8, .d8⟩ 255 255 255 = .rgb ⟨255, 125, 255⟩ := by decide

theorem witness_CvtAndDataAgree :
    State.reset.mode = .idle ∧ exec (.plane 1 1 1 1 1 8 8) State.reset = .next { openState 1 with rsp := [0x0800000000000000] } ∧
      (openState 1).mode = .batch ∧ (openState 65535).p = (openState 1).p := ⟨rfl, rfl, rfl, rfl⟩

/-- A batch of one beat, and one of two with a failing beat. -/
theorem witness_BatchRunsToItsEnd :
    State.reset.mode = .idle ∧ (2 : Field16) ≠ 0 ∧ (1 : BitVec 3).toNat ≤ 6 ∧ LegalDepth (8 : BitVec 5).toNat ∧
      [(0xC000000000000001 : Word), 0xC00A403C001B8000].length = (2 : Field16).toNat ∧
      (∀ w ∈ [(0xC000000000000001 : Word), 0xC00A403C001B8000], wordBits w 63 62 = 3) ∧
      [(0xC000000000000000 : Word)].length = (1 : Field16).toNat := by
  refine ⟨rfl, by decide, by decide, by decide, rfl, ?_, rfl⟩
  simp only [List.forall_mem_cons]
  exact ⟨by decide, by decide, by simp⟩

/-- Planes of two positions at the ends of the range; empty planes meet the hypotheses too. -/
theorem witness_ConvertPlaneIsPointwise :
    BatchInv State.reset ∧ State.reset.mode = .idle ∧ State.reset.cmd = [] ∧ State.reset.rsp = [] ∧ State.reset.rspReady = true ∧
      [(⟨255, 0, 255⟩ : Position), ⟨0, 255, 128⟩].length ≤ 65535 ∧
      ∀ x ∈ [(⟨255, 0, 255⟩ : Position), ⟨0, 255, 128⟩],
        x.y.toNat ≤ 2 ^ depthBits .d8 - 1 ∧ x.cb.toNat ≤ 2 ^ depthBits .d8 - 1 ∧ x.cr.toNat ≤ 2 ^ depthBits .d8 - 1 := by decide

/-- Planes of 65536 positions, one more than a batch holds. -/
theorem witness_LongPlanesArePointwise :
    (List.replicate 65536 (⟨255, 0, 128⟩ : Position)).length = 65536 ∧
      ∀ x ∈ List.replicate 65536 (⟨255, 0, 128⟩ : Position),
        x.y.toNat ≤ 2 ^ depthBits .d8 - 1 ∧ x.cb.toNat ≤ 2 ^ depthBits .d8 - 1 ∧ x.cr.toNat ≤ 2 ^ depthBits .d8 - 1 := by
  refine ⟨List.length_replicate, fun x hx => ?_⟩
  rw [List.eq_of_mem_replicate hx]
  decide

theorem witness_IdleParametersAreUnobservable :
    State.reset.mode = .idle ∧
      executeAll [0xC000000000000000, 0x8000C000C000CD08] State.reset =
        some { openState 3 with rsp := [0x6C00000000000000, 0x0800000000000000] } := ⟨rfl, rfl⟩

theorem witness_InterleavingDoesNotChangeResponses :
    let es : List Event := [.host (.push 0), .block, .host .take, .host (.push 7), .host (.setReady false), .block]
    BatchInv State.reset ∧ (∀ e ∈ es, e ≠ .host .reset) ∧
      runEvents es State.reset =
        some (⟨[0, 7], [0x5000000000000000]⟩, { State.reset with cmd := [7], rspReady := false }) :=
  ⟨by decide, by decide, rfl⟩

theorem witness_QueuedCommandsAreAnswered :
    BatchInv { State.reset with cmd := [0x8000C000C000CD08, 0, 0] } ∧
      { State.reset with cmd := [0x8000C000C000CD08, 0, 0] }.rspReady = true := by decide

/-- The three clauses of `PushesWaitForRoom`: a block that accepts `n + 1` ahead has room while `n` are outstanding, a block with
nothing outstanding has room, and a stalled block has none. -/
theorem witness_PushesWaitForRoom :
    (∀ n, acceptAhead = n + 1 →
        let s := { State.reset with cmd := List.replicate n 0 }
        s.cmd.length + s.rsp.length < acceptAhead) ∧
      (State.reset.rspReady = true ∧ State.reset.cmd = [] ∧ State.reset.rsp = []) ∧
      acceptAhead ≤ stalled.cmd.length + stalled.rsp.length ∧ stalled.rsp ≠ [] := by
  refine ⟨fun n h => by simp [State.reset, h], ⟨rfl, rfl, rfl⟩, by simp [stalled, State.reset], fun h => ?_⟩
  exact absurd (congrArg List.length h) (by simp [stalled])

/-- A host that takes nothing, from reset; and a stalled block, whose bound is reached. -/
theorem witness_HostThatTakesNothingIsStalled :
    (∀ e ∈ [Event.host (.push 0), .block], e ≠ .host .reset ∧ e ≠ .host .take) ∧
      runEvents [.host (.push 0), .block] State.reset =
        some (⟨[0], []⟩, { State.reset with rsp := [0x5000000000000000] }) ∧
      outstanding State.reset ≤ max acceptAhead 1 ∧ max acceptAhead 1 ≤ outstanding stalled ∧
      runEvents [.block] stalled = some (⟨[], []⟩, stalled) :=
  ⟨by decide, rfl, by simp [outstanding, State.reset], by simp [outstanding, stalled, State.reset], rfl⟩

/-- The clauses of `FailedCallsReportTheirFailure`: both errors of the check, the first value out of range, unequal lengths, and
lengths above 65535. -/
theorem witness_FailedCallsReportTheirFailure :
    BetweenCalls State.reset ∧ checkParams cfg 7 0 8 8 = .error .reservedColorSpace ∧
      checkParams cfg 7 0 8 9 = .error .invalidBitDepth ∧ checkParams cfg 1 1 8 8 = .ok ⟨.bt709, .full, .d8, .d8⟩ ∧
      2 ^ depthBits .d8 - 1 < max (0 : Field16).toNat (max (256 : Field16).toNat (0 : Field16).toNat) ∧
      ¬ ([1].length = [1].length ∧ [1].length = [1, 2].length) := by decide

theorem witness_FailedCallsReportTheirFailure_batch :
    let xs : List Position := [⟨0, 256, 0⟩, ⟨255, 128, 128⟩]
    xs.length ≤ 65535 ∧
      (∃ x ∈ xs, 2 ^ depthBits .d8 - 1 < max x.y.toNat (max x.cb.toNat x.cr.toNat)) ∧
      ¬ ((List.replicate 65536 (0 : Field16)).length ≤ 65535) ∧
      ¬ ((List.replicate 65536 (0 : Field16)).length = [(0 : Field16)].length) ∧
      65535 < (List.replicate 65536 (⟨0, 0, 0⟩ : Position)).length := by
  refine ⟨by decide, ⟨_, List.mem_cons_self, by decide⟩, ?_, ?_, ?_⟩ <;> rw [List.length_replicate] <;> decide

theorem witness_ZeroWordResynchronises : State.reset.mode = .idle ∧ (openState 1).mode = .batch := by decide

end Sys2Proof.Tests
end

section
/-! SUPPORT. The decoder by the word's `op` bits, and the decoder's fields as the slices that `wordBits` reads. -/

namespace Sys2Proof.Machine

/-- The `BitVec` slices of `decode` and the arithmetic slices of the statements read the same bits (00_scope.md R5). -/
theorem ofNat_wordBits (w : Word) {hi lo len : Nat} (h : hi - lo + 1 = len) :
    BitVec.ofNat len (wordBits w hi lo) = field w lo len := by
  apply BitVec.eq_of_toNat_eq
  rw [BitVec.toNat_ofNat, toNat_field, wordBits, h, Nat.mod_mod]

theorem toNat_opField (w : Word) : (opField w).toNat = wordBits w 63 62 := toNat_field w 62 2

theorem decode_of_op_zero {w : Word} (h : wordBits w 63 62 = 0) : decode w = .error .illegalOp := by
  simp only [decode, toNat_opField, h]

theorem decode_of_op_one {w : Word} (h : wordBits w 63 62 = 1) :
    decode w = .ok (.cvt (field w 46 16) (field w 30 16) (field w 14 16) (field w 11 3) (field w 10 1) (field w 5 5)
      (field w 0 5)) := by
  simp only [decode, toNat_opField, h]

theorem decode_of_op_two {w : Word} (h : wordBits w 63 62 = 2) :
    decode w = .ok (.plane (field w 46 16) (field w 30 16) (field w 14 16) (field w 11 3) (field w 10 1) (field w 5 5)
      (field w 0 5)) := by
  simp only [decode, toNat_opField, h]

theorem decode_of_op_three {w : Word} (h : wordBits w 63 62 = 3) :
    decode w = .ok (.data (field w 46 16) (field w 30 16) (field w 14 16) (field w 0 14)) := by
  simp only [decode, toNat_opField, h]

/-- Settles O2: the decoder's equation for each value of `op`, with its fields written as the slices of R45. -/
theorem decodeReadsTheFields : Obligations.DecodeReadsTheFields := by
  intro w
  simp (disch := decide) only [ofNat_wordBits]
  exact ⟨decode_of_op_zero, decode_of_op_one, decode_of_op_two, decode_of_op_three⟩

end Sys2Proof.Machine
end

section
/-! SUPPORT. The Kr/Kb matrix on integers read as rationals: positive denominators, and the source's formula channel by channel
(42_colorspace_matrix_engine.md R96, R97, R103). -/

namespace Sys2Proof.Machine

theorem matrixKrKb_den_pos {e : KrKb} {n : UnitYCC} (he : e.valid = true) (hy : 0 < n.dy) (hc : 0 < n.dc) :
    0 < (matrixKrKb e n).r.den ∧ 0 < (matrixKrKb e n).g.den ∧ 0 < (matrixKrKb e n).b.den := by
  have hk : 0 < e.k := krKb_k_pos he
  have hg : 0 < kgNum e := kgNum_pos he
  simp only [matrixKrKb]
  exact ⟨by positivity, by positivity, by positivity⟩

/-- `Kg = g / K` (40_colorspace_descriptor.md R70). -/
theorem kgNum_div_k {e : KrKb} (he : e.valid = true) :
    (kgNum e : ℚ) / e.k = 1 - (e.a : ℚ) / e.k - (e.b : ℚ) / e.k := by
  have hk : (e.k : ℚ) ≠ 0 := by exact_mod_cast (krKb_k_pos he).ne'
  simp only [kgNum, Int.cast_sub, sub_div, div_self hk]

/-- R and B are one formula: luma plus a multiple of one chroma, with Kr = a / k or Kb = a / k. -/
theorem lumaPlusChroma_div {a k ny dy nc dc : ℚ} (hk : k ≠ 0) (hy : dy ≠ 0) (hc : dc ≠ 0) :
    (ny * k * dc + 2 * (k - a) * nc * dy) / (k * dy * dc) = ny / dy + 2 * (1 - a / k) * (nc / dc) := by
  field_simp

/-- G takes off both chroma terms over Kg = g / k. -/
theorem lumaMinusChromas_div {a b k g ny dy ncb ncr dc : ℚ} (hk : k ≠ 0) (hg : g ≠ 0) (hy : dy ≠ 0) (hc : dc ≠ 0) :
    (ny * k * g * dc - (2 * a * (k - a) * ncr + 2 * b * (k - b) * ncb) * dy) / (k * g * dy * dc) =
      ny / dy - (2 * (a / k) * (1 - a / k) * (ncr / dc) + 2 * (b / k) * (1 - b / k) * (ncb / dc)) / (g / k) := by
  field_simp

/-- The integers of R97 are the formula of R96 exactly. -/
theorem matrixKrKb_eq_krKbQ {e : KrKb} {n : UnitYCC} (he : e.valid = true) (hy : 0 < n.dy) (hc : 0 < n.dc) :
    (((matrixKrKb e n).r.num : ℚ) / (matrixKrKb e n).r.den, ((matrixKrKb e n).g.num : ℚ) / (matrixKrKb e n).g.den,
        ((matrixKrKb e n).b.num : ℚ) / (matrixKrKb e n).b.den) =
      krKbQ ((e.a : ℚ) / e.k) ((e.b : ℚ) / e.k) ((n.ny : ℚ) / n.dy) ((n.ncb : ℚ) / n.dc) ((n.ncr : ℚ) / n.dc) := by
  have hk : (e.k : ℚ) ≠ 0 := by exact_mod_cast (krKb_k_pos he).ne'
  have hg : (kgNum e : ℚ) ≠ 0 := by exact_mod_cast (kgNum_pos he).ne'
  have hy' : (n.dy : ℚ) ≠ 0 := by exact_mod_cast hy.ne'
  have hc' : (n.dc : ℚ) ≠ 0 := by exact_mod_cast hc.ne'
  rw [krKbQ, ← kgNum_div_k he, ← lumaPlusChroma_div hk hy' hc', ← lumaPlusChroma_div hk hy' hc',
    ← lumaMinusChromas_div hk hg hy' hc']
  simp only [matrixKrKb]
  push_cast
  rfl

/-- Settles O37: the three components of `matrixKrKb_eq_krKbQ`, and R103's positive denominators. -/
theorem matrixIsTheSourceFormula : Obligations.MatrixIsTheSourceFormula := by
  intro e n he hy hc
  obtain ⟨hR, hGB⟩ := Prod.ext_iff.mp (matrixKrKb_eq_krKbQ he hy hc)
  obtain ⟨hG, hB⟩ := Prod.ext_iff.mp hGB
  exact ⟨hR, hB, hG, matrixKrKb_den_pos he hy hc⟩

end Sys2Proof.Machine
end

section
/-! SUPPORT. The scaler on the exact rational: rounding half up as a floor, the clamp, and where the clamp is not needed
(43_bitdepth_scaler.md R111 to R115). -/

namespace Sys2Proof.Machine

/-- The statements write `Min` and `Mout` as powers of two on rationals (00_scope.md R8). -/
theorem cast_fullScale (d : BitDepth) : (fullScale d : ℚ) = 2 ^ depthBits d - 1 := by
  simp [fullScale]

/-- A raw sample's range, given on naturals, as a bound on integers. -/
theorem natCast_le_fullScale {v : Nat} {d : BitDepth} (h : v ≤ 2 ^ depthBits d - 1) : (v : Int) ≤ fullScale d := by
  have : (v : Int) < 2 ^ depthBits d := by exact_mod_cast (Nat.le_sub_one_iff_lt (Nat.two_pow_pos _)).mp h
  exact Int.le_sub_one_of_lt this

/-- The integers of R114 round the product of R111 half up as R112 does: both sides have the same lower bounds. -/
theorem scalePre_eq_floor {q : Ratio} (d : BitDepth) (hq : 0 < q.den) :
    scalePre q d = ⌊(q.num : ℚ) / q.den * fullScale d + 1 / 2⌋ := by
  have hden : (0 : ℚ) < q.den := by exact_mod_cast hq
  have hval : (q.num : ℚ) / q.den * fullScale d + 1 / 2 = (2 * q.num * fullScale d + q.den) / (2 * q.den) := by
    field_simp
  refine eq_of_forall_le_iff fun k => ?_
  rw [scalePre, le_fdiv_iff (by omega), Int.le_floor, hval, le_div_iff₀ (by positivity)]
  exact_mod_cast Iff.rfl

/-- The clamp as R113 writes it. -/
theorem scale_eq_max_min (q : Ratio) (d : BitDepth) : scale q d = max 0 (min (fullScale d) (scalePre q d)) :=
  clampTo_eq_max_min (fullScale_pos d).le

/-- A product that is an integer is its own rounding. -/
theorem scalePre_of_mul_eq {q : Ratio} {d : BitDepth} {k : Int} (hq : 0 < q.den) (h : q.num * fullScale d = k * q.den) :
    scalePre q d = k := by
  have hden : (q.den : ℚ) ≠ 0 := by exact_mod_cast hq.ne'
  have hprod : (q.num : ℚ) / q.den * fullScale d = k := by
    rw [div_mul_eq_mul_div, div_eq_iff hden]
    exact_mod_cast h
  rw [scalePre_eq_floor d hq, hprod, Int.floor_intCast_add]
  norm_num

/-- Rounding keeps the order of the exact values. -/
theorem scalePre_mono {q q' : Ratio} (d : BitDepth) (hq : 0 < q.den) (hq' : 0 < q'.den)
    (h : (q.num : ℚ) / q.den ≤ q'.num / q'.den) : scalePre q d ≤ scalePre q' d := by
  have hfull : (0 : ℚ) < fullScale d := by exact_mod_cast fullScale_pos d
  rw [scalePre_eq_floor d hq, scalePre_eq_floor d hq']
  gcongr

theorem scalePre_zero {den : Int} (d : BitDepth) (h : 0 < den) : scalePre ⟨0, den⟩ d = 0 :=
  scalePre_of_mul_eq h (by simp)

theorem scalePre_self {den : Int} (d : BitDepth) (h : 0 < den) : scalePre ⟨den, den⟩ d = fullScale d :=
  scalePre_of_mul_eq h (mul_comm _ _)

/-- A unit value in `[0, 1]` needs no clamp: its rounding lies between those of the two ends. -/
theorem scale_eq_scalePre {q : Ratio} (d : BitDepth) (hq : 0 < q.den) (h0 : 0 ≤ q.num) (h1 : q.num ≤ q.den) :
    scale q d = scalePre q d := by
  have hden : (0 : ℚ) < q.den := by exact_mod_cast hq
  have hlo : 0 ≤ scalePre q d :=
    calc 0 = scalePre ⟨0, q.den⟩ d := (scalePre_zero d hq).symm
      _ ≤ scalePre q d := scalePre_mono d hq hq (by gcongr)
  have hhi : scalePre q d ≤ fullScale d :=
    calc scalePre q d ≤ scalePre ⟨q.den, q.den⟩ d := scalePre_mono d hq hq (by gcongr)
      _ = fullScale d := scalePre_self d hq
  rw [scale_eq_max_min, min_eq_right hhi, max_eq_right hlo]

/-- Identity's channel, a raw sample in range over `Min`, reaches the output without a clamp (R115). -/
theorem scale_sample {v : Nat} {din : BitDepth} (dout : BitDepth) (hv : v ≤ 2 ^ depthBits din - 1) :
    scale ⟨v, fullScale din⟩ dout = scalePre ⟨v, fullScale din⟩ dout :=
  scale_eq_scalePre dout (fullScale_pos din) (Int.natCast_nonneg v) (natCast_le_fullScale hv)

/-- Settles O40: the clamp of the rounded product, with `Mout` as a power of two, and R112's examples by evaluation. -/
theorem scaleRoundsHalfUpAndClamps : Obligations.ScaleRoundsHalfUpAndClamps := by
  refine ⟨fun q dout hq => ?_, by decide⟩
  rw [scale_eq_max_min, scalePre_eq_floor dout hq, cast_fullScale, fullScale]

/-- Settles O42: without the clamp the rounded product remains, which is exact at equal depths and at both ends. -/
theorem identityThroughTheScaler : Obligations.IdentityThroughTheScaler := by
  refine ⟨fun v din dout hv => ?rescale, fun v d hv => ?passthrough, fun din dout => ⟨?zero, ?top⟩, by decide⟩
  case rescale =>
    rw [scale_sample dout hv, scalePre_eq_floor dout (fullScale_pos din), div_mul_eq_mul_div, cast_fullScale, cast_fullScale,
      Int.cast_natCast]
  case passthrough => exact (scale_sample d hv).trans (scalePre_of_mul_eq (fullScale_pos d) rfl)
  case zero =>
    have h := fullScale_pos din
    exact (scale_eq_scalePre dout h le_rfl h.le).trans (scalePre_zero dout h)
  case top =>
    have h := fullScale_pos din
    exact (scale_eq_scalePre dout h h.le le_rfl).trans (scalePre_self dout h)

end Sys2Proof.Machine
end

section
/-! SUPPORT. The response word as the number of 30_encoding.md R56, for triples that fit their fields, and what the model's
pipeline and operand readers give the commands. -/

namespace Sys2Proof.Machine

/-- Each sample of the triple fits the 16 bits a response word has for it (30_encoding.md R56). -/
def FitsResponse (t : Rgb) : Prop := t.r < 2 ^ 16 ∧ t.g < 2 ^ 16 ∧ t.b < 2 ^ 16

theorem fitsResponse_noRgb : FitsResponse noRgb := by
  simp [FitsResponse, noRgb]

/-- The scaler's clamp keeps every sample within the largest depth. -/
theorem toNat_scale_lt (q : Ratio) (d : BitDepth) : (scale q d).toNat < 2 ^ 16 := by
  have hscale : scale q d ≤ fullScale d := scale_le q d
  have hfull : fullScale d < 2 ^ 16 := by cases d <;> decide
  omega

theorem fitsResponse_scaleRgb (u : UnitRgb) (d : BitDepth) : FitsResponse (scaleRgb u d) :=
  ⟨toNat_scale_lt _ d, toNat_scale_lt _ d, toNat_scale_lt _ d⟩

/-- The concatenation of `responseWord` and the sum of `rsp64` are one word when no sample overflows its field. -/
theorem responseWord_eq_rsp64 (st : Status) (op : BitVec 2) (last berr : Bool) {t : Rgb} (ht : FitsResponse t) :
    responseWord ⟨st, op, last, berr, t⟩ =
      rsp64 (statusCode st).toNat op.toNat last.toNat berr.toNat t.r t.g t.b := by
  obtain ⟨hr, hg, hb⟩ := ht
  rw [← BitVec.setWidth_eq (responseWord _), ← BitVec.ofNat_toNat, toNat_responseWord, rsp64,
    Nat.mod_eq_of_lt hr, Nat.mod_eq_of_lt hg, Nat.mod_eq_of_lt hb]

/-- What a conversion can give CVT and DATA: SampleOutOfRange without a pixel, or a triple that fits a response. -/
theorem convStatus_cases {q : Params} {y cb cr : Nat} {st : Status} {t : Rgb} (h : convStatus cfg q y cb cr = .ok (st, t)) :
    (conv cfg q y cb cr = .sampleOutOfRange ∧ st = .sampleOutOfRange ∧ t = noRgb) ∨
      (conv cfg q y cb cr = .rgb t ∧ st = .ok ∧ FitsResponse t) := by
  rw [convStatus_cfg] at h
  unfold conv
  by_cases hrange : max3 y cb cr > 2 ^ depthBits q.din - 1
  · rw [if_pos hrange] at h ⊢
    cases h
    exact .inl ⟨rfl, rfl, rfl⟩
  · rw [if_neg hrange] at h ⊢
    cases h
    exact .inr ⟨rfl, rfl, fitsResponse_scaleRgb _ _⟩

/-- The check never looks at the range: it passes its reading through. -/
theorem checkParams_range (c : Config) (space : BitVec 3) (range : BitVec 1) (din dout : BitVec 5) :
    checkParams c space range din dout =
      (checkParams c space 0 din dout).map fun q => { q with range := rangeOfCode range } := by
  unfold checkParams
  cases acceptedDepth c.depthsIn din with
  | none => rfl
  | some di =>
    cases acceptedDepth c.depthsOut dout with
    | none => rfl
    | some dd => cases spaceOfCode space <;> rfl

/-- A check that passes names the colour space of the code it was given. -/
theorem space_of_checkParams_ok {space : BitVec 3} {range : BitVec 1} {din dout : BitVec 5} {q : Params}
    (h : checkParams cfg space range din dout = .ok q) : spaceOfCode space = some q.space := by
  obtain ⟨hbad, -⟩ | ⟨hbad, -⟩ | ⟨sp, di, dd, hok, hsp, -⟩ := checkParams_cfg space range din dout
  · cases hbad.symm.trans h
  · cases hbad.symm.trans h
  · cases hok.symm.trans h
    exact hsp

/-- Identity bypasses the normalizer, the only block that reads the range (41_range_normalizer.md R91). -/
theorem convStatus_identity_range (c : Config) {q : Params} (hq : q.space = .identity) (range : SignalRange) (y cb cr : Nat) :
    convStatus c { q with range := range } y cb cr = convStatus c q y cb cr := by
  simp only [convStatus, conv, unitRgb, hq, desc]

/-- The last fourteen bits of a command word are its parameter part (30_encoding.md R45). -/
theorem field_c64_low (op : BitVec 2) (a b c : Field16) (low : BitVec 14) : field (c64 op a b c low) 0 14 = low := by
  apply BitVec.eq_of_toNat_eq
  rw [toNat_field, toNat_c64]
  omega

/-- A legal parameter register holds parameters (10_state.md R21). -/
theorem paramsOfP_of_legalP {p : BitVec 14} (h : LegalP p) : ∃ q, paramsOfP cfg p = .ok q := by
  obtain ⟨hspace, hdin, hdout⟩ := h
  obtain ⟨-, hnone | hnone⟩ | ⟨-, hseven, -⟩ | ⟨sp, di, dd, hok, -⟩ :=
    checkParams_cfg (pSpace p) (pRange p) (pDin p) (pDout p)
  · exact absurd hdin (depthOfField_eq_none.mp hnone)
  · exact absurd hdout (depthOfField_eq_none.mp hnone)
  · simp [hseven] at hspace
  · exact ⟨_, hok⟩

end Sys2Proof.Machine
end

section
/-! SUPPORT. The three commands in their own mode, whole (44_converter_commands.md R122, R124 to R126). -/

namespace Sys2Proof.Machine

/-- What answering does to the state, with the response as the number of R56. -/
theorem respond_eq_rsp64 (st : Status) (op : BitVec 2) (last berr : Bool) {t : Rgb} (ht : FitsResponse t) (s : State) :
    respond ⟨st, op, last, berr, t⟩ s =
      { s with rsp := s.rsp ++ [rsp64 (statusCode st).toNat op.toNat last.toNat berr.toNat t.r t.g t.b] } := by
  rw [respond, responseWord_eq_rsp64 st op last berr ht]

/-- A failed command adds its error response, as the number of R56, and changes nothing else (60_exceptions.md R149). -/
theorem failCommand_eq (st : Status) (op : BitVec 2) (s : State) :
    failCommand st op s = { s with rsp := s.rsp ++ [rsp64 (statusCode st).toNat op.toNat 0 0 0 0 0] } :=
  respond_eq_rsp64 st op false false fitsResponse_noRgb s

/-- With `space = Identity` the range field of CVT is not observable, in either mode. -/
theorem execCvt_identity_range (y cb cr : Field16) (range range' : BitVec 1) (din dout : BitVec 5) (s : State) :
    execCvt y cb cr (spaceCode .identity) range din dout s = execCvt y cb cr (spaceCode .identity) range' din dout s := by
  unfold execCvt
  cases s.mode with
  | batch => rfl
  | idle =>
    rw [checkParams_range cfg _ range, checkParams_range cfg _ range']
    cases hcheck : checkParams cfg (spaceCode .identity) 0 din dout with
    | error e => rfl
    | ok q =>
      have hspace : q.space = .identity :=
        (Option.some.inj ((spaceOfCode_spaceCode .identity).symm.trans (space_of_checkParams_ok hcheck))).symm
      simp only [Except.map, convStatus_identity_range cfg hspace]

/-- Settles O16: the outcomes of CVT in IDLE are those of `execCvt_cases` and `convStatus_cases`; the words of the examples by
evaluation. -/
theorem cvtInIdleMode : Obligations.CvtInIdleMode := by
  refine ⟨fun s y cb cr space range din dout hidle => ?outcome,
    fun s y cb cr range range' din dout => execCvt_identity_range y cb cr range range' din dout s, rfl, rfl, rfl⟩
  obtain ⟨hbatch, -⟩ | ⟨-, e, hcheck, hexec⟩ | ⟨-, q, st, t, hcheck, hconv, hexec⟩ :=
    execCvt_cases y cb cr space range din dout s
  · cases hidle.symm.trans hbatch
  · simp only [exec, hexec, hcheck, failCommand_eq]
    rfl
  · obtain ⟨hout, rfl, rfl⟩ | ⟨hrgb, rfl, ht⟩ := convStatus_cases hconv
    · simp only [exec, hexec, hcheck, hout, respond_eq_rsp64 _ _ _ _ fitsResponse_noRgb]
      rfl
    · simp only [exec, hexec, hcheck, hrgb, respond_eq_rsp64 _ _ _ _ ht]
      rfl

/-- Settles O17: the outcomes of PLANE in IDLE are those of `execPlane_cases`, with `P` read back from the encoding; the words of
the examples by evaluation. -/
theorem planeInIdleMode : Obligations.PlaneInIdleMode := by
  refine ⟨fun s ly lcb lcr space range din dout hidle => ?outcome, rfl, rfl, rfl⟩
  obtain ⟨hbatch, -⟩ | ⟨-, e, hcheck, hexec⟩ | ⟨-, q, hcheck, hlengths⟩ :=
    execPlane_cases ly lcb lcr space range din dout s
  · cases hidle.symm.trans hbatch
  · simp only [exec, hexec, hcheck, failCommand_eq]
    rfl
  · simp only [exec, hcheck]
    obtain ⟨hne, hexec⟩ | ⟨heq, hzero, hexec⟩ | ⟨heq, hpos, hexec⟩ := hlengths
    · rw [if_pos hne, hexec, failCommand_eq]
      rfl
    · rw [if_neg (not_not_intro heq), if_pos hzero, hexec, respond_eq_rsp64 _ _ _ _ fitsResponse_noRgb]
      rfl
    · rw [if_neg (not_not_intro heq), if_neg hpos, hexec, ofNat_wordBits (len := 14) _ rfl, encode, field_c64_low, openBatch,
        respond_eq_rsp64 _ _ _ _ fitsResponse_noRgb]
      rfl

/-- The last position by the number in `REM`; in an open batch `REM` is not 0 (10_state.md R20). -/
theorem lastBeat_eq_decide {s : State} (hrem : s.rem ≠ 0) : lastBeat s = decide (s.rem.toNat - 1 = 0) := by
  rw [lastBeat, Bool.eq_iff_iff, beq_iff_eq, decide_eq_true_iff]
  bv_omega

theorem rem_sub_one_eq_ofNat {s : State} (hrem : s.rem ≠ 0) : s.rem - 1 = BitVec.ofNat 16 (s.rem.toNat - 1) := by
  bv_omega

/-- `BERR` after a beat, by the number of the beat's status. -/
theorem beatBerr_eq_ite (st : Status) (s : State) :
    beatBerr st s = if (statusCode st).toNat ≠ 0 then true else s.berr := by
  cases st <;> simp [beatBerr, statusCode]

/-- A counted beat in numbers: the last one closes the batch and reports `BERR`, any other leaves it open. -/
theorem next_countBeat_eq (st : Status) {t : Rgb} {s : State} (ht : FitsResponse t) (hrem : s.rem ≠ 0)
    (hbatch : s.mode = .batch) :
    (.next (countBeat st t s) : Result) =
      let berr := if (statusCode st).toNat ≠ 0 then true else s.berr
      if s.rem.toNat - 1 = 0 then
        .next { s with
          mode := .idle, rem := 0, berr := false
          rsp := s.rsp ++ [rsp64 (statusCode st).toNat 3 1 berr.toNat t.r t.g t.b] }
      else
        .next { s with
          rem := BitVec.ofNat 16 (s.rem.toNat - 1), berr := berr
          rsp := s.rsp ++ [rsp64 (statusCode st).toNat 3 0 0 t.r t.g t.b] } := by
  rw [countBeat, respond_eq_rsp64 _ _ _ _ ht, lastBeat_eq_decide hrem, rem_sub_one_eq_ofNat hrem,
    beatBerr_eq_ite]
  by_cases hlast : s.rem.toNat - 1 = 0
  · simp only [hlast, decide_true, if_true, Bool.true_and]
    rfl
  · simp only [hlast, decide_false, if_false, Bool.false_and, Bool.false_eq_true, hbatch]
    rfl

/-- Settles O18: the invariant rules out the fault of `execData_cases`, and each beat that remains is counted by
`next_countBeat_eq`; the words of the examples by evaluation. -/
theorem dataInBatchMode : Obligations.DataInBatchMode := by
  refine ⟨fun s y cb cr rsv hinv hbatch => ?outcome, rfl, rfl, rfl⟩
  obtain ⟨hrem, hlegal⟩ := hinv.2 hbatch
  obtain ⟨q, hparams⟩ := paramsOfP_of_legalP hlegal
  refine ⟨q, hparams, ?_⟩
  obtain ⟨hidle, -⟩ | ⟨-, hrsv, hexec⟩ | ⟨-, -, e, herror, -⟩ | ⟨-, hrsv, q', st, t, hparams', hconv, hexec⟩ :=
    execData_cases y cb cr rsv s
  · cases hidle.symm.trans hbatch
  · simp only [if_pos hrsv]
    exact hexec.trans (next_countBeat_eq .illegalCommand fitsResponse_noRgb hrem hbatch)
  · cases herror.symm.trans hparams
  · cases hparams'.symm.trans hparams
    obtain ⟨hout, rfl, rfl⟩ | ⟨hrgb, rfl, ht⟩ := convStatus_cases hconv
    · simp only [if_neg (not_not_intro hrsv), hout]
      exact hexec.trans (next_countBeat_eq .sampleOutOfRange fitsResponse_noRgb hrem hbatch)
    · simp only [if_neg (not_not_intro hrsv), hrgb]
      exact hexec.trans (next_countBeat_eq .ok ht hrem hbatch)

end Sys2Proof.Machine
end

section
/-! SUPPORT. One word executed, read by its raw bits: the command of its `op`, words out of sequence, and what an abort and a failed
beat leave behind (60_exceptions.md R145, R146). -/

namespace Sys2Proof.Machine

theorem toNat_field_eq_wordBits (w : Word) {hi lo len : Nat} (h : hi - lo + 1 = len) :
    (field w lo len).toNat = wordBits w hi lo := by
  rw [toNat_field, wordBits, h]

theorem wordBits_op_cases (w : Word) :
    wordBits w 63 62 = 0 ∨ wordBits w 63 62 = 1 ∨ wordBits w 63 62 = 2 ∨ wordBits w 63 62 = 3 := by
  have hlt : wordBits w 63 62 < 4 := Nat.mod_lt _ (by decide)
  omega

/-- The opcode a response echoes, from the raw bits. -/
theorem opField_eq_ofNat {w : Word} {n : Nat} (h : wordBits w 63 62 = n) : opField w = BitVec.ofNat 2 n := by
  rw [← h, ofNat_wordBits w (len := 2) rfl, opField]

theorem execute_of_op_zero {w : Word} (h : wordBits w 63 62 = 0) (s : State) : execute w s = execIllegal s := by
  rw [execute, decode_of_op_zero h]

theorem execute_of_op_one {w : Word} (h : wordBits w 63 62 = 1) (s : State) :
    execute w s = execCvt (field w 46 16) (field w 30 16) (field w 14 16) (field w 11 3) (field w 10 1) (field w 5 5)
      (field w 0 5) s := by
  simp only [execute, decode_of_op_one h, exec]

theorem execute_of_op_two {w : Word} (h : wordBits w 63 62 = 2) (s : State) :
    execute w s = execPlane (field w 46 16) (field w 30 16) (field w 14 16) (field w 11 3) (field w 10 1) (field w 5 5)
      (field w 0 5) s := by
  simp only [execute, decode_of_op_two h, exec]

theorem execute_of_op_three {w : Word} (h : wordBits w 63 62 = 3) (s : State) :
    execute w s = execData (field w 46 16) (field w 30 16) (field w 14 16) (field w 0 14) s := by
  simp only [execute, decode_of_op_three h, exec]

/-- An abort in full: the batch is gone, `P` stays, and the response closes it with `berr` (60_exceptions.md R146 (b)). -/
theorem abortBatch_eq (op : BitVec 2) (s : State) :
    abortBatch op s = { s with
      mode := .idle, rem := 0, berr := false
      rsp := s.rsp ++ [rsp64 6 op.toNat 1 1 0 0 0] } :=
  respond_eq_rsp64 .sequenceError op true true fitsResponse_noRgb _

/-- A DATA word outside a batch is out of sequence (60_exceptions.md R146 (a)). -/
theorem execute_data_of_idle {w : Word} {s : State} (hidle : s.mode = .idle) (hop : wordBits w 63 62 = 3) :
    execute w s = .next (failCommand .sequenceError 3 s) := by
  simp only [execute_of_op_three hop, execData, hidle]

/-- The abort looks at nothing of the word but its `op` (60_exceptions.md R146 (b)). -/
theorem execute_of_batch {w : Word} {s : State} (hbatch : s.mode = .batch) (hop : wordBits w 63 62 ≠ 3) :
    execute w s = .next (abortBatch (opField w) s) := by
  obtain h | h | h | h := wordBits_op_cases w
  · simp only [execute_of_op_zero h, execIllegal, hbatch, opField_eq_ofNat h, BitVec.ofNat_eq_ofNat]
  · simp only [execute_of_op_one h, execCvt, hbatch, opField_eq_ofNat h, BitVec.ofNat_eq_ofNat]
  · simp only [execute_of_op_two h, execPlane, hbatch, opField_eq_ofNat h, BitVec.ofNat_eq_ofNat]
  · exact absurd h hop

/-- The reserved bits of a DATA word, as the decoder and as the statements read them (30_encoding.md R52). -/
theorem reservedField_eq_zero_iff {w : Word} : field w 0 14 = 0 ↔ wordBits w 13 0 = 0 := by
  rw [← toNat_field_eq_wordBits w (len := 14) rfl]
  exact BitVec.toNat_inj.symm

/-- A word that is no command, outside a batch (60_exceptions.md R145 (a)). -/
theorem execute_illegal_of_idle {w : Word} {s : State} (hidle : s.mode = .idle) (hop : wordBits w 63 62 = 0) :
    execute w s = .next (failCommand .illegalCommand 0 s) := by
  simp only [execute_of_op_zero hop, execIllegal, hidle]

/-- The beat is counted whatever `P` and the samples are (60_exceptions.md R145 (b)). -/
theorem execute_data_of_reserved {w : Word} {s : State} (hbatch : s.mode = .batch) (hop : wordBits w 63 62 = 3)
    (hrsv : wordBits w 13 0 ≠ 0) : execute w s = .next (countBeat .illegalCommand noRgb s) := by
  simp only [execute_of_op_three hop, execData, hbatch, if_pos (mt reservedField_eq_zero_iff.mp hrsv)]

/-- The last position is the one at which `REM` is 1, in every state. -/
theorem lastBeat_eq_decide_one (s : State) : lastBeat s = decide (s.rem.toNat = 1) := by
  rw [lastBeat, Bool.eq_iff_iff, beq_iff_eq, decide_eq_true_iff]
  bv_omega

/-- A failed beat in full: it is counted and sets `BERR`, which the last beat reports and clears (44_converter_commands.md R126). -/
theorem next_countBeat_of_error {st : Status} (hst : st ≠ .ok) {s : State} (hbatch : s.mode = .batch) :
    (.next (countBeat st noRgb s) : Result) =
      if s.rem.toNat = 1 then
        .next { s with mode := .idle, rem := 0, berr := false, rsp := s.rsp ++ [rsp64 (statusCode st).toNat 3 1 1 0 0 0] }
      else .next { s with rem := s.rem - 1, berr := true, rsp := s.rsp ++ [rsp64 (statusCode st).toNat 3 0 0 0 0 0] } := by
  have hberr : beatBerr st s = true := by simp [beatBerr, hst]
  rw [countBeat, respond_eq_rsp64 _ _ _ _ fitsResponse_noRgb, lastBeat_eq_decide_one, hberr]
  by_cases hlast : s.rem.toNat = 1
  · have hrem : s.rem - 1 = 0 := by bv_omega
    simp only [hlast, hrem, decide_true, if_true, Bool.true_and]
    rfl
  · simp only [hlast, hbatch, decide_false, if_false, Bool.false_and, Bool.false_eq_true]
    rfl

/-- Settles O22: the two rules of R146, with the response as the number of R56; the words of the examples by evaluation. -/
theorem wordsOutOfSequence : Obligations.WordsOutOfSequence := by
  refine ⟨fun s w hidle hop => ?dataInIdle, fun s w hbatch hop => ?abort, rfl, rfl⟩
  case dataInIdle => rw [execute_data_of_idle hidle hop, failCommand_eq]; rfl
  case abort => rw [execute_of_batch hbatch hop, abortBatch_eq, toNat_opField]

/-- Settles O23: the two rules of R145, where the beat's is a failed beat in full, and the statuses of R146's two rules; the
words of the examples by evaluation. -/
theorem illegalCommandResponses : Obligations.IllegalCommandResponses := by
  refine ⟨fun s w hidle hop => ?illegalOp, fun s w hbatch hop hrsv => ?reservedBits, fun s w t hbatch hop hexec => ?abort,
    fun s w t hidle hop hexec => ?dataInIdle, rfl, rfl⟩
  case illegalOp => rw [execute_illegal_of_idle hidle hop, failCommand_eq]; rfl
  case reservedBits =>
    rw [execute_data_of_reserved hbatch hop hrsv, next_countBeat_of_error (by decide) hbatch]
    rfl
  case abort =>
    cases (execute_of_batch hbatch (by omega)).symm.trans hexec
    simp [statusCode]
  case dataInIdle =>
    cases (execute_data_of_idle hidle hop).symm.trans hexec
    simp [statusCode]

end Sys2Proof.Machine
end

section
/-! SUPPORT. The parameter check and the sample check decided by raw numbers, and the three commands once their checks are decided
(44_converter_commands.md R120 to R126; 60_exceptions.md R141 to R144). -/

namespace Sys2Proof.Machine

theorem legalDepth_iff_ne_none {d : BitVec 5} : LegalDepth d.toNat ↔ depthOfField d ≠ none := by
  rw [Ne, depthOfField_eq_none, not_not]

/-- The three outcomes of the check exclude each other, and the first numbers that apply decide (44_converter_commands.md R121). -/
theorem checkParams_by_numbers (space : BitVec 3) (range : BitVec 1) (din dout : BitVec 5) :
    (¬ (LegalDepth din.toNat ∧ LegalDepth dout.toNat) ∧ checkParams cfg space range din dout = .error .invalidBitDepth) ∨
      ((LegalDepth din.toNat ∧ LegalDepth dout.toNat) ∧ space.toNat = 7 ∧
        checkParams cfg space range din dout = .error .reservedColorSpace) ∨
      ((LegalDepth din.toNat ∧ LegalDepth dout.toNat) ∧ space.toNat ≠ 7 ∧
        ∃ q, checkParams cfg space range din dout = .ok q ∧ depthBits q.din = din.toNat) := by
  rw [legalDepth_iff_ne_none, legalDepth_iff_ne_none]
  obtain ⟨hbad, hnone⟩ | ⟨hbad, rfl, hdin, hdout⟩ | ⟨sp, di, dd, hok, hspace, hdin, hdout⟩ :=
    checkParams_cfg space range din dout
  · exact .inl ⟨fun ⟨h1, h2⟩ => hnone.elim h1 h2, hbad⟩
  · exact .inr (.inl ⟨⟨hdin, hdout⟩, rfl, hbad⟩)
  · refine .inr (.inr ⟨⟨by simp [hdin], by simp [hdout]⟩, fun h7 => ?_, _, hok, (depthOfField_eq_some.mp hdin).symm⟩)
    cases (spaceOfCode_eq_none.mpr (BitVec.eq_of_toNat_eq h7)).symm.trans hspace

/-- A check that passes took the input depth from its field. -/
theorem din_of_checkParams_ok {space : BitVec 3} {range : BitVec 1} {din dout : BitVec 5} {q : Params}
    (h : checkParams cfg space range din dout = .ok q) : depthBits q.din = din.toNat := by
  obtain ⟨-, hbad⟩ | ⟨-, -, hbad⟩ | ⟨-, -, q', hok, hdin⟩ := checkParams_by_numbers space range din dout
  · cases hbad.symm.trans h
  · cases hbad.symm.trans h
  · cases hok.symm.trans h
    exact hdin

/-- The codes of legal parameters pass the check and name these parameters. -/
theorem checkParams_codes (q : Params) :
    checkParams cfg (spaceCode q.space) (rangeCode q.range) (depthField q.din) (depthField q.dout) = .ok q := by
  have haccepted (d : BitDepth) : acceptedDepth depthsDefault (depthField d) = some d := by cases d <;> rfl
  have hrange : rangeOfCode (rangeCode q.range) = q.range := by cases q.range <;> rfl
  simp only [checkParams, cfg, haccepted, spaceOfCode_spaceCode, hrange]

theorem convStatus_of_inRange {q : Params} {y cb cr : Nat} (h : max y (max cb cr) ≤ 2 ^ depthBits q.din - 1) :
    ∃ t, convStatus cfg q y cb cr = .ok (.ok, t) :=
  ⟨_, by rw [convStatus_cfg, max3, if_neg (Nat.not_lt.mpr h)]⟩

theorem convStatus_of_outOfRange {q : Params} {y cb cr : Nat} (h : 2 ^ depthBits q.din - 1 < max y (max cb cr)) :
    convStatus cfg q y cb cr = .ok (.sampleOutOfRange, noRgb) := by
  rw [convStatus_cfg, max3, if_pos h]

/-- Samples of 16 bits are all in range at depth 16. -/
theorem inRange_of_din_16 {q : Params} (hdin : depthBits q.din = 16) (y cb cr : Field16) :
    max y.toNat (max cb.toNat cr.toNat) ≤ 2 ^ depthBits q.din - 1 := by
  rw [hdin]
  omega

theorem execCvt_of_error {y cb cr : Field16} {space : BitVec 3} {range : BitVec 1} {din dout : BitVec 5} {s : State} {e : Status}
    (hidle : s.mode = .idle) (hcheck : checkParams cfg space range din dout = .error e) :
    execCvt y cb cr space range din dout s = .next (failCommand e 1 s) := by
  simp only [execCvt, hidle, hcheck]

theorem execCvt_of_ok {y cb cr : Field16} {space : BitVec 3} {range : BitVec 1} {din dout : BitVec 5} {s : State} {q : Params}
    {st : Status} {t : Rgb} (hidle : s.mode = .idle) (hcheck : checkParams cfg space range din dout = .ok q)
    (hconv : convStatus cfg q y.toNat cb.toNat cr.toNat = .ok (st, t)) :
    execCvt y cb cr space range din dout s = .next (respond ⟨st, 1, false, false, t⟩ s) := by
  simp only [execCvt, hidle, hcheck, hconv]

theorem execPlane_of_error {ly lcb lcr : Field16} {space : BitVec 3} {range : BitVec 1} {din dout : BitVec 5} {s : State}
    {e : Status} (hidle : s.mode = .idle) (hcheck : checkParams cfg space range din dout = .error e) :
    execPlane ly lcb lcr space range din dout s = .next (failCommand e 2 s) := by
  simp only [execPlane, hidle, hcheck]

theorem execPlane_of_unequal {ly lcb lcr : Field16} {space : BitVec 3} {range : BitVec 1} {din dout : BitVec 5} {s : State}
    {q : Params} (hidle : s.mode = .idle) (hcheck : checkParams cfg space range din dout = .ok q)
    (hlengths : ¬ (ly = lcb ∧ lcb = lcr)) :
    execPlane ly lcb lcr space range din dout s = .next (failCommand .planeLengthMismatch 2 s) := by
  simp only [execPlane, hidle, hcheck, if_pos hlengths]

theorem execData_of_ok {y cb cr : Field16} {s : State} {q : Params} {st : Status} {t : Rgb} (hbatch : s.mode = .batch)
    (hparams : paramsOfP cfg s.p = .ok q) (hconv : convStatus cfg q y.toNat cb.toNat cr.toNat = .ok (st, t)) :
    execData y cb cr 0 s = .next (countBeat st t s) := by
  simp only [execData, hbatch, hparams, hconv, if_neg (not_not_intro rfl)]

theorem execData_of_illegalParams {y cb cr : Field16} {s : State} {e : Status} (hbatch : s.mode = .batch)
    (hparams : paramsOfP cfg s.p = .error e) : execData y cb cr 0 s = .fault .illegalParameters := by
  simp only [execData, hbatch, hparams, if_neg (not_not_intro rfl)]

/-- The parameters of an open batch, when `P` was packed from their codes (10_state.md R21). -/
theorem paramsOfP_codes {p : BitVec 14} {q : Params}
    (hp : p = packParams (spaceCode q.space) (rangeCode q.range) (depthField q.din) (depthField q.dout)) :
    paramsOfP cfg p = .ok q := by
  rw [hp, paramsOfP_packParams, checkParams_codes]

theorem statusCode_injective : Function.Injective statusCode := by
  intro e e'
  cases e <;> cases e' <;> decide

/-- The check answers with one of its own two errors. -/
theorem checkParams_ne_sampleOutOfRange (space : BitVec 3) (range : BitVec 1) (din dout : BitVec 5) :
    checkParams cfg space range din dout ≠ .error .sampleOutOfRange := by
  obtain ⟨-, h⟩ | ⟨-, -, h⟩ | ⟨-, -, q, h, -⟩ := checkParams_by_numbers space range din dout <;> simp [h]

theorem execCvt_din_16_lastStatus {y cb cr : Field16} {space : BitVec 3} {range : BitVec 1} {dout : BitVec 5} {s t : State}
    (hexec : execCvt y cb cr space range 16 dout s = .next t) :
    (t.rsp.getLast?.map rspStatus) ≠ some (statusCode .sampleOutOfRange) := by
  obtain ⟨-, hnext⟩ | ⟨-, e, hcheck, hnext⟩ | ⟨-, q, st, rgb, hcheck, hconv, hnext⟩ :=
    execCvt_cases y cb cr space range 16 dout s
  · cases hnext.symm.trans hexec
    simp [statusCode]
  · cases hnext.symm.trans hexec
    have hne : e ≠ .sampleOutOfRange := by
      rintro rfl
      exact checkParams_ne_sampleOutOfRange space range 16 dout hcheck
    simpa [statusCode_injective.eq_iff] using hne
  · obtain ⟨rgb', hin⟩ := convStatus_of_inRange (inRange_of_din_16 (din_of_checkParams_ok hcheck) y cb cr)
    cases hin.symm.trans hconv
    cases hnext.symm.trans hexec
    simp [statusCode]

theorem execData_din_16_lastStatus {y cb cr : Field16} {rsv : BitVec 14} {s t : State} (hdin : pDin s.p = 16)
    (hexec : execData y cb cr rsv s = .next t) : (t.rsp.getLast?.map rspStatus) ≠ some (statusCode .sampleOutOfRange) := by
  obtain ⟨-, hnext⟩ | ⟨-, -, hnext⟩ | ⟨-, -, e, -, hnext⟩ | ⟨-, -, q, st, rgb, hparams, hconv, hnext⟩ :=
    execData_cases y cb cr rsv s
  · cases hnext.symm.trans hexec
    simp [statusCode]
  · cases hnext.symm.trans hexec
    simp [statusCode]
  · cases hnext.symm.trans hexec
  · have hq : depthBits q.din = 16 := (din_of_checkParams_ok hparams).trans (congrArg BitVec.toNat hdin)
    obtain ⟨rgb', hin⟩ := convStatus_of_inRange (inRange_of_din_16 hq y cb cr)
    cases hin.symm.trans hconv
    cases hnext.symm.trans hexec
    simp [statusCode]

/-- Settles O27: the samples decide `convStatus`, and its status is the command's; at depth 16 every sample is in range. -/
theorem sampleOutOfRangeResponses : Obligations.SampleOutOfRangeResponses := by
  refine ⟨fun s q y cb cr hidle hout => ?cvtOut, fun s q y cb cr hbatch hp hout => ?dataOut,
    fun s t q y cb cr hidle hin hexec => ?cvtIn, fun s t q y cb cr hbatch hp hin hexec => ?dataIn,
    fun s t y cb cr space range dout hexec => execCvt_din_16_lastStatus hexec,
    fun s t y cb cr rsv hdin hexec => execData_din_16_lastStatus hdin hexec, rfl, rfl⟩
  case cvtOut =>
    rw [exec, execCvt_of_ok hidle (checkParams_codes q) (convStatus_of_outOfRange hout),
      respond_eq_rsp64 _ _ _ _ fitsResponse_noRgb]
    rfl
  case dataOut =>
    rw [exec, execData_of_ok hbatch (paramsOfP_codes hp) (convStatus_of_outOfRange hout),
      next_countBeat_of_error (by decide) hbatch]
    rfl
  case cvtIn =>
    obtain ⟨rgb, hconv⟩ := convStatus_of_inRange hin
    cases (execCvt_of_ok hidle (checkParams_codes q) hconv).symm.trans hexec
    simp [statusCode]
  case dataIn =>
    obtain ⟨rgb, hconv⟩ := convStatus_of_inRange hin
    cases (execData_of_ok hbatch (paramsOfP_codes hp) hconv).symm.trans hexec
    simp [statusCode]

end Sys2Proof.Machine
end

section
/-! SUPPORT. The cause that 60_exceptions.md R148 names for a word in a state, read from raw bits, and the proof that it is what
the machine answers. -/

namespace Sys2Proof.Machine

/-- Both depth fields of a CVT or PLANE word are legal (30_encoding.md R50). -/
abbrev LegalDepths (w : Word) : Prop := LegalDepth (wordBits w 9 5) ∧ LegalDepth (wordBits w 4 0)

/-- The three length fields of a PLANE word agree (44_converter_commands.md R124). -/
abbrev EqualLengths (w : Word) : Prop := wordBits w 61 46 = wordBits w 45 30 ∧ wordBits w 45 30 = wordBits w 29 14

/-- The greatest of the three sample fields of a CVT or DATA word (60_exceptions.md R143). -/
abbrev greatestSample (w : Word) : Nat := max (wordBits w 61 46) (max (wordBits w 45 30) (wordBits w 29 14))

/-- The status that a word earns in a state: one constructor per cause of R141 to R146, each with the negations of the causes that
R148 puts before it, and three ways to succeed. It reads only `MODE`, `P.din` and the raw bits of the word. -/
inductive Cause (w : Word) (s : State) : Status → Prop
  | dataInIdle (hidle : s.mode = .idle) (hop : wordBits w 63 62 = 3) : Cause w s .sequenceError
  | otherInBatch (hbatch : s.mode = .batch) (hop : wordBits w 63 62 ≠ 3) : Cause w s .sequenceError
  | illegalOp (hidle : s.mode = .idle) (hop : wordBits w 63 62 = 0) : Cause w s .illegalCommand
  | reservedBits (hbatch : s.mode = .batch) (hop : wordBits w 63 62 = 3) (hrsv : wordBits w 13 0 ≠ 0) :
      Cause w s .illegalCommand
  | depth (hidle : s.mode = .idle) (hop : wordBits w 63 62 = 1 ∨ wordBits w 63 62 = 2) (hdepths : ¬ LegalDepths w) :
      Cause w s .invalidBitDepth
  | space (hidle : s.mode = .idle) (hop : wordBits w 63 62 = 1 ∨ wordBits w 63 62 = 2) (hdepths : LegalDepths w)
      (hspace : wordBits w 13 11 = 7) : Cause w s .reservedColorSpace
  | lengths (hidle : s.mode = .idle) (hop : wordBits w 63 62 = 2) (hdepths : LegalDepths w) (hspace : wordBits w 13 11 ≠ 7)
      (hlengths : ¬ EqualLengths w) : Cause w s .planeLengthMismatch
  | planeOk (hidle : s.mode = .idle) (hop : wordBits w 63 62 = 2) (hdepths : LegalDepths w) (hspace : wordBits w 13 11 ≠ 7)
      (hlengths : EqualLengths w) : Cause w s .ok
  | cvtSample (hidle : s.mode = .idle) (hop : wordBits w 63 62 = 1) (hdepths : LegalDepths w) (hspace : wordBits w 13 11 ≠ 7)
      (hout : 2 ^ wordBits w 9 5 - 1 < greatestSample w) : Cause w s .sampleOutOfRange
  | cvtOk (hidle : s.mode = .idle) (hop : wordBits w 63 62 = 1) (hdepths : LegalDepths w) (hspace : wordBits w 13 11 ≠ 7)
      (hin : greatestSample w ≤ 2 ^ wordBits w 9 5 - 1) : Cause w s .ok
  | dataSample (hbatch : s.mode = .batch) (hop : wordBits w 63 62 = 3) (hrsv : wordBits w 13 0 = 0)
      (hout : 2 ^ (pDin s.p).toNat - 1 < greatestSample w) : Cause w s .sampleOutOfRange
  | dataOk (hbatch : s.mode = .batch) (hop : wordBits w 63 62 = 3) (hrsv : wordBits w 13 0 = 0)
      (hin : greatestSample w ≤ 2 ^ (pDin s.p).toNat - 1) : Cause w s .ok

/-- The machine goes on from `s` with one response to `w`, and its status is the word's cause. -/
def AnswersItsCause (w : Word) (s : State) : Prop :=
  ∃ t x, execute w s = .next t ∧ t.rsp = s.rsp ++ [responseWord x] ∧ Cause w s x.status

/-- `check_params` on the fields of a CVT or PLANE word. -/
def wordCheck (w : Word) : Except Status Params :=
  checkParams cfg (field w 11 3) (field w 10 1) (field w 5 5) (field w 0 5)

theorem wordCheck_cases (w : Word) :
    (¬ LegalDepths w ∧ wordCheck w = .error .invalidBitDepth) ∨
      (LegalDepths w ∧ wordBits w 13 11 = 7 ∧ wordCheck w = .error .reservedColorSpace) ∨
      (LegalDepths w ∧ wordBits w 13 11 ≠ 7 ∧ ∃ q, wordCheck w = .ok q ∧ depthBits q.din = wordBits w 9 5) := by
  have h := checkParams_by_numbers (field w 11 3) (field w 10 1) (field w 5 5) (field w 0 5)
  rwa [toNat_field_eq_wordBits w (hi := 9) rfl, toNat_field_eq_wordBits w (hi := 4) rfl,
    toNat_field_eq_wordBits w (hi := 13) rfl] at h

theorem wordCheck_of_illegalDepth {w : Word} (h : ¬ LegalDepths w) : wordCheck w = .error .invalidBitDepth := by
  obtain ⟨-, hbad⟩ | ⟨hlegal, -⟩ | ⟨hlegal, -⟩ := wordCheck_cases w
  · exact hbad
  · exact absurd hlegal h
  · exact absurd hlegal h

theorem wordCheck_of_reservedSpace {w : Word} (hdepths : LegalDepths w) (hspace : wordBits w 13 11 = 7) :
    wordCheck w = .error .reservedColorSpace := by
  obtain ⟨hillegal, -⟩ | ⟨-, -, hbad⟩ | ⟨-, hgood, -⟩ := wordCheck_cases w
  · exact absurd hdepths hillegal
  · exact hbad
  · exact absurd hspace hgood

theorem wordCheck_of_legal {w : Word} (hdepths : LegalDepths w) (hspace : wordBits w 13 11 ≠ 7) :
    ∃ q, wordCheck w = .ok q ∧ depthBits q.din = wordBits w 9 5 := by
  obtain ⟨hillegal, -⟩ | ⟨-, hseven, -⟩ | ⟨-, -, hok⟩ := wordCheck_cases w
  · exact absurd hdepths hillegal
  · exact absurd hseven hspace
  · exact hok

/-- CVT and PLANE fail their check alike, with the echo of their own `op` (60_exceptions.md R141, R144, R149). -/
theorem execute_of_failedCheck {w : Word} {s : State} {e : Status} (hidle : s.mode = .idle)
    (hop : wordBits w 63 62 = 1 ∨ wordBits w 63 62 = 2) (hcheck : wordCheck w = .error e) :
    execute w s = .next (failCommand e (opField w) s) := by
  obtain h | h := hop
  · rw [execute_of_op_one h, execCvt_of_error hidle hcheck, opField_eq_ofNat h]
    rfl
  · rw [execute_of_op_two h, execPlane_of_error hidle hcheck, opField_eq_ofNat h]
    rfl

theorem equalLengths_iff (w : Word) :
    EqualLengths w ↔ field w 46 16 = field w 30 16 ∧ field w 30 16 = field w 14 16 := by
  rw [← BitVec.toNat_inj, ← BitVec.toNat_inj, toNat_field_eq_wordBits w (hi := 61) rfl,
    toNat_field_eq_wordBits w (hi := 45) rfl, toNat_field_eq_wordBits w (hi := 29) rfl]

theorem greatestSample_eq (w : Word) :
    greatestSample w = max (field w 46 16).toNat (max (field w 30 16).toNat (field w 14 16).toNat) := by
  rw [toNat_field_eq_wordBits w (hi := 61) rfl, toNat_field_eq_wordBits w (hi := 45) rfl,
    toNat_field_eq_wordBits w (hi := 29) rfl]

theorem execute_of_unequalLengths {w : Word} {s : State} (hidle : s.mode = .idle) (hop : wordBits w 63 62 = 2)
    (hdepths : LegalDepths w) (hspace : wordBits w 13 11 ≠ 7) (hlengths : ¬ EqualLengths w) :
    execute w s = .next (failCommand .planeLengthMismatch 2 s) := by
  obtain ⟨q, hcheck, -⟩ := wordCheck_of_legal hdepths hspace
  rw [execute_of_op_two hop, execPlane_of_unequal hidle hcheck (mt (equalLengths_iff w).mpr hlengths)]

theorem plane_answersItsCause {w : Word} {s : State} (hidle : s.mode = .idle) (hop : wordBits w 63 62 = 2)
    (hdepths : LegalDepths w) (hspace : wordBits w 13 11 ≠ 7) : AnswersItsCause w s := by
  by_cases hlengths : EqualLengths w
  case neg =>
    exact ⟨_, _, execute_of_unequalLengths hidle hop hdepths hspace hlengths, rfl, .lengths hidle hop hdepths hspace hlengths⟩
  case pos =>
    obtain ⟨q, hcheck, -⟩ := wordCheck_of_legal hdepths hspace
    have hcause : Cause w s .ok := .planeOk hidle hop hdepths hspace hlengths
    obtain ⟨hbatch, -⟩ | ⟨-, e, herror, -⟩ | ⟨-, -, -, ⟨hne, -⟩ | ⟨-, -, hempty⟩ | ⟨-, -, hopen⟩⟩ :=
      execPlane_cases (field w 46 16) (field w 30 16) (field w 14 16) (field w 11 3) (field w 10 1) (field w 5 5)
        (field w 0 5) s
    · cases hidle.symm.trans hbatch
    · cases herror.symm.trans hcheck
    · exact absurd ((equalLengths_iff w).mp hlengths) hne
    · exact ⟨_, _, (execute_of_op_two hop s).trans hempty, rfl, hcause⟩
    · exact ⟨_, _, (execute_of_op_two hop s).trans hopen, rfl, hcause⟩

theorem cvt_answersItsCause {w : Word} {s : State} (hidle : s.mode = .idle) (hop : wordBits w 63 62 = 1)
    (hdepths : LegalDepths w) (hspace : wordBits w 13 11 ≠ 7) : AnswersItsCause w s := by
  obtain ⟨q, hcheck, hdin⟩ := wordCheck_of_legal hdepths hspace
  obtain hin | hout := le_or_gt (greatestSample w) (2 ^ wordBits w 9 5 - 1)
  · have hcause : Cause w s .ok := .cvtOk hidle hop hdepths hspace hin
    rw [greatestSample_eq, ← hdin] at hin
    obtain ⟨t, hconv⟩ := convStatus_of_inRange hin
    exact ⟨_, _, (execute_of_op_one hop s).trans (execCvt_of_ok hidle hcheck hconv), rfl, hcause⟩
  · have hcause : Cause w s .sampleOutOfRange := .cvtSample hidle hop hdepths hspace hout
    rw [greatestSample_eq, ← hdin] at hout
    exact ⟨_, _, (execute_of_op_one hop s).trans (execCvt_of_ok hidle hcheck (convStatus_of_outOfRange hout)), rfl, hcause⟩

/-- A well-formed DATA word reaches the conversion. -/
theorem execute_data_of_ok {w : Word} {s : State} {q : Params} {st : Status} {t : Rgb} (hbatch : s.mode = .batch)
    (hop : wordBits w 63 62 = 3) (hrsv : wordBits w 13 0 = 0) (hparams : paramsOfP cfg s.p = .ok q)
    (hconv : convStatus cfg q (field w 46 16).toNat (field w 30 16).toNat (field w 14 16).toNat = .ok (st, t)) :
    execute w s = .next (countBeat st t s) := by
  rw [execute_of_op_three hop, reservedField_eq_zero_iff.mpr hrsv, execData_of_ok hbatch hparams hconv]

theorem data_answersItsCause {w : Word} {s : State} {q : Params} (hbatch : s.mode = .batch) (hop : wordBits w 63 62 = 3)
    (hrsv : wordBits w 13 0 = 0) (hparams : paramsOfP cfg s.p = .ok q) : AnswersItsCause w s := by
  have hdin : depthBits q.din = (pDin s.p).toNat := din_of_checkParams_ok hparams
  obtain hin | hout := le_or_gt (greatestSample w) (2 ^ (pDin s.p).toNat - 1)
  · have hcause : Cause w s .ok := .dataOk hbatch hop hrsv hin
    rw [greatestSample_eq, ← hdin] at hin
    obtain ⟨t, hconv⟩ := convStatus_of_inRange hin
    exact ⟨_, _, execute_data_of_ok hbatch hop hrsv hparams hconv, rfl, hcause⟩
  · have hcause : Cause w s .sampleOutOfRange := .dataSample hbatch hop hrsv hout
    rw [greatestSample_eq, ← hdin] at hout
    exact ⟨_, _, execute_data_of_ok hbatch hop hrsv hparams (convStatus_of_outOfRange hout), rfl, hcause⟩

/-- CVT and PLANE share the check, and go their own ways once it passes. -/
theorem checked_answersItsCause {w : Word} {s : State} (hidle : s.mode = .idle)
    (hop : wordBits w 63 62 = 1 ∨ wordBits w 63 62 = 2) : AnswersItsCause w s := by
  obtain ⟨hdepths, hcheck⟩ | ⟨hdepths, hspace, hcheck⟩ | ⟨hdepths, hspace, -⟩ := wordCheck_cases w
  · exact ⟨_, _, execute_of_failedCheck hidle hop hcheck, rfl, .depth hidle hop hdepths⟩
  · exact ⟨_, _, execute_of_failedCheck hidle hop hcheck, rfl, .space hidle hop hdepths hspace⟩
  · exact hop.elim (cvt_answersItsCause hidle · hdepths hspace) (plane_answersItsCause hidle · hdepths hspace)

theorem idle_answersItsCause {s : State} (hidle : s.mode = .idle) (w : Word) : AnswersItsCause w s := by
  obtain hop | hop | hop | hop := wordBits_op_cases w
  · exact ⟨_, _, execute_illegal_of_idle hidle hop, rfl, .illegalOp hidle hop⟩
  · exact checked_answersItsCause hidle (.inl hop)
  · exact checked_answersItsCause hidle (.inr hop)
  · exact ⟨_, _, execute_data_of_idle hidle hop, rfl, .dataInIdle hidle hop⟩

/-- Every word is answered with its cause, but for the beat of a batch whose `P` no accepted PLANE can have written (log entry 2). -/
theorem execute_answers_or_faults (w : Word) (s : State) :
    AnswersItsCause w s ∨
      (execute w s = .fault .illegalParameters ∧ s.mode = .batch ∧ ∃ e, paramsOfP cfg s.p = .error e) := by
  cases hmode : s.mode with
  | idle => exact .inl (idle_answersItsCause hmode w)
  | batch =>
    by_cases hop : wordBits w 63 62 = 3
    case neg => exact .inl ⟨_, _, execute_of_batch hmode hop, rfl, .otherInBatch hmode hop⟩
    by_cases hrsv : wordBits w 13 0 = 0
    case neg => exact .inl ⟨_, _, execute_data_of_reserved hmode hop hrsv, rfl, .reservedBits hmode hop hrsv⟩
    cases hparams : paramsOfP cfg s.p with
    | ok q => exact .inl (data_answersItsCause hmode hop hrsv hparams)
    | error e =>
      refine .inr ⟨?_, rfl, e, rfl⟩
      rw [execute_of_op_three hop, reservedField_eq_zero_iff.mpr hrsv, execData_of_illegalParams hmode hparams]

/-- In a state with the invariant every word is answered with its cause. -/
theorem answersItsCause_of_batchInv {s : State} (hinv : BatchInv s) (w : Word) : AnswersItsCause w s := by
  obtain hanswer | ⟨-, hbatch, e, herror⟩ := execute_answers_or_faults w s
  · exact hanswer
  · obtain ⟨q, hparams⟩ := paramsOfP_of_legalP (hinv.2 hbatch).2
    cases herror.symm.trans hparams

/-- The newest response of a step that goes on names the word's cause. -/
theorem cause_of_lastStatus {w : Word} {s t : State} {st : Status} (hexec : execute w s = .next t)
    (hlast : t.rsp.getLast?.map rspStatus = some (statusCode st)) : Cause w s st := by
  obtain ⟨t', x, hnext, hrsp, hcause⟩ | ⟨hfault, -⟩ := execute_answers_or_faults w s
  · cases hnext.symm.trans hexec
    rw [hrsp, List.getLast?_concat, Option.map_some, rspStatus_responseWord, Option.some.injEq] at hlast
    rwa [← statusCode_injective hlast]
  · cases hfault.symm.trans hexec

/-- Settles O24: both commands fail their check alike, and only `Cause.depth` names this status. -/
theorem invalidBitDepthResponses : Obligations.InvalidBitDepthResponses := by
  refine ⟨fun s w hidle hop hdepths => ?cause, fun s w t hother hexec hone => ?others, rfl⟩
  case cause =>
    rw [execute_of_failedCheck hidle hop (wordCheck_of_illegalDepth hdepths), failCommand_eq, toNat_opField]
    rfl
  case others =>
    cases cause_of_lastStatus (st := .invalidBitDepth) hexec hone with
    | depth hidle hop hdepths => simp [hidle, hop, hdepths] at hother

/-- Settles O25: both commands fail their check alike, and only `Cause.space` names this status. -/
theorem reservedColorSpaceResponses : Obligations.ReservedColorSpaceResponses := by
  refine ⟨fun s w hidle hop hdin hdout hspace => ?cause, fun s w t hother hexec hfour => ?others, rfl, rfl⟩
  case cause =>
    rw [execute_of_failedCheck hidle hop (wordCheck_of_reservedSpace ⟨hdin, hdout⟩ hspace), failCommand_eq, toNat_opField]
    rfl
  case others =>
    cases cause_of_lastStatus (st := .reservedColorSpace) hexec hfour with
    | space hidle hop hdepths hspace => simp [hidle, hop, hdepths, hspace] at hother

/-- Settles O26: only `Cause.lengths` names this status, and its word is a PLANE. -/
theorem planeLengthMismatchResponses : Obligations.PlaneLengthMismatchResponses := by
  refine ⟨fun s w hidle hop hdin hdout hspace hlengths => ?cause, fun s w t hother hexec htwo => ?others, rfl⟩
  case cause =>
    rw [execute_of_unequalLengths hidle hop ⟨hdin, hdout⟩ hspace hlengths, failCommand_eq]
    rfl
  case others =>
    cases cause_of_lastStatus (st := .planeLengthMismatch) hexec htwo with
    | lengths hidle hop => exact hother hop

theorem toNat_pDin (p : BitVec 14) : (pDin p).toNat = p.toNat / 2 ^ 5 % 2 ^ 5 := by
  rw [pDin, BitVec.extractLsb'_toNat, Nat.shiftRight_eq_div_pow]

/-- Settles O28: the invariant gives the answer its cause, and each cause is the first of R148's chain that applies. -/
theorem statusIsTheFirstApplicableCause : Obligations.StatusIsTheFirstApplicableCause := by
  refine ⟨fun s w hinv => ?chain, rfl, rfl, rfl⟩
  obtain ⟨t, x, hexec, hrsp, hcause⟩ := answersItsCause_of_batchInv hinv w
  refine ⟨t, responseWord x, hexec, hrsp, ?_⟩
  rw [rspStatus_responseWord, ← toNat_pDin]
  generalize x.status = st at hcause
  cases hcause with
  | dataInIdle hidle hop => simp [hidle, hop, statusCode]
  | otherInBatch hbatch hop => simp [hbatch, hop, statusCode]
  | illegalOp hidle hop => simp [hidle, hop, statusCode]
  | reservedBits hbatch hop hrsv => simp [hbatch, hop, hrsv, statusCode]
  | depth hidle hop hdepths => obtain hop | hop := hop <;> simp [hidle, hop, hdepths, statusCode]
  | space hidle hop hdepths hspace => obtain hop | hop := hop <;> simp [hidle, hop, hdepths, hspace, statusCode]
  | lengths hidle hop hdepths hspace hlengths => simp [hidle, hop, hdepths, hspace, hlengths, statusCode]
  | planeOk hidle hop hdepths hspace hlengths => simp [hidle, hop, hdepths, hspace, hlengths, statusCode]
  | cvtSample hidle hop hdepths hspace hout => simp [hidle, hop, hdepths, hspace, hout, statusCode]
  | cvtOk hidle hop hdepths hspace hin => simpa [hidle, hop, hdepths, hspace, statusCode] using hin
  | dataSample hbatch hop hrsv hout => simp [hbatch, hop, hrsv, hout, statusCode]
  | dataOk hbatch hop hrsv hin => simpa [hbatch, hop, hrsv, statusCode] using hin

end Sys2Proof.Machine
end

section
/-! SUPPORT. The state after reset field by field, and the reset event as that state beside the host's own readiness
(70_reset_and_hazards.md R165 to R168). -/

namespace Sys2Proof.Machine

@[simp] theorem State.reset_mode : State.reset.mode = .idle := rfl
@[simp] theorem State.reset_p : State.reset.p = 0 := rfl
@[simp] theorem State.reset_rem : State.reset.rem = 0 := rfl
@[simp] theorem State.reset_berr : State.reset.berr = false := rfl
@[simp] theorem State.reset_cmd : State.reset.cmd = [] := rfl
@[simp] theorem State.reset_rsp : State.reset.rsp = [] := rfl

/-- The event forgets the whole state of the block: only the host's input is taken over from `s`. -/
theorem assertReset_eq (s : State) : assertReset s = { State.reset with rspReady := s.rspReady } := rfl

/-- Settles O10: the event's state differs from the state after reset in the host's readiness only, so both have the values of
the state after reset. -/
theorem resetLeavesTheSpecsValues : Obligations.ResetLeavesTheSpecsValues := by
  intro s
  rw [hostAct_reset, assertReset_eq]
  simp only [State.reset_mode, State.reset_p, State.reset_rem, State.reset_berr, State.reset_cmd, State.reset_rsp, and_self]

end Sys2Proof.Machine
end

section
/-! SUPPORT. A command word as its five C64 parts: the parts read back from the word, the word rebuilt from its parts, and the
decoder and the encoder as inverses of each other (30_encoding.md R45, R54, R55, R66). -/

namespace Sys2Proof.Machine
open Sys2Proof.Laws.EncodeMatchesTable (c64_and opMask_eq dataMask_eq)

@[simp] theorem opField_c64 (op : BitVec 2) (a b c : Field16) (low : BitVec 14) : opField (c64 op a b c low) = op := by
  apply BitVec.eq_of_toNat_eq
  rw [opField, toNat_field, toNat_c64]
  omega

@[simp] theorem field_c64_first (op : BitVec 2) (a b c : Field16) (low : BitVec 14) : field (c64 op a b c low) 46 16 = a := by
  apply BitVec.eq_of_toNat_eq
  rw [toNat_field, toNat_c64]
  omega

@[simp] theorem field_c64_second (op : BitVec 2) (a b c : Field16) (low : BitVec 14) : field (c64 op a b c low) 30 16 = b := by
  apply BitVec.eq_of_toNat_eq
  rw [toNat_field, toNat_c64]
  omega

@[simp] theorem field_c64_third (op : BitVec 2) (a b c : Field16) (low : BitVec 14) : field (c64 op a b c low) 14 16 = c := by
  apply BitVec.eq_of_toNat_eq
  rw [toNat_field, toNat_c64]
  omega

/-- The parts determine the word and the word its parts. -/
theorem c64_inj {op op' : BitVec 2} {a a' b b' c c' : Field16} {low low' : BitVec 14} :
    c64 op a b c low = c64 op' a' b' c' low' ↔ op = op' ∧ a = a' ∧ b = b' ∧ c = c' ∧ low = low' := by
  refine ⟨fun h => ⟨?_, ?_, ?_, ?_, ?_⟩, by rintro ⟨rfl, rfl, rfl, rfl, rfl⟩; rfl⟩
  · simpa only [opField_c64] using congrArg opField h
  · simpa only [field_c64_first] using congrArg (field · 46 16) h
  · simpa only [field_c64_second] using congrArg (field · 30 16) h
  · simpa only [field_c64_third] using congrArg (field · 14 16) h
  · simpa only [field_c64_low] using congrArg (field · 0 14) h

/-- No bit of a word lies outside the five parts. -/
theorem c64_fields (w : Word) : c64 (opField w) (field w 46 16) (field w 30 16) (field w 14 16) (field w 0 14) = w := by
  apply BitVec.eq_of_toNat_eq
  rw [toNat_c64, opField, toNat_field, toNat_field, toNat_field, toNat_field, toNat_field]
  omega

/-- The four parameter fields of a word, read through its last fourteen bits as `P` is read (10_state.md R21). -/
theorem pFields_of_word (w : Word) :
    pSpace (field w 0 14) = field w 11 3 ∧ pRange (field w 0 14) = field w 10 1 ∧ pDin (field w 0 14) = field w 5 5 ∧
      pDout (field w 0 14) = field w 0 5 := by
  refine ⟨?_, ?_, ?_, ?_⟩ <;> apply BitVec.eq_of_toNat_eq <;>
    simp only [pSpace, pRange, pDin, pDout, BitVec.extractLsb'_toNat, Nat.shiftRight_eq_div_pow, toNat_field] <;> omega

/-- The parameter part of a word is the packing of its four fields. -/
theorem packParams_fields (w : Word) :
    packParams (field w 11 3) (field w 10 1) (field w 5 5) (field w 0 5) = field w 0 14 := by
  apply BitVec.eq_of_toNat_eq
  rw [toNat_packParams, toNat_field, toNat_field, toNat_field, toNat_field, toNat_field]
  omega

/-- The four parameter fields of a word that was packed. -/
theorem paramFields_c64 (op : BitVec 2) (a b c : Field16) (space : BitVec 3) (range : BitVec 1) (din dout : BitVec 5) :
    let w := c64 op a b c (packParams space range din dout)
    field w 11 3 = space ∧ field w 10 1 = range ∧ field w 5 5 = din ∧ field w 0 5 = dout := by
  intro w
  obtain ⟨hspace, hrange, hdin, hdout⟩ := pFields_of_word w
  rw [field_c64_low] at hspace hrange hdin hdout
  exact ⟨hspace.symm.trans (pSpace_packParams ..), hrange.symm.trans (pRange_packParams ..),
    hdin.symm.trans (pDin_packParams ..), hdout.symm.trans (pDout_packParams ..)⟩

@[simp] theorem opField_encode (i : Instr) : opField (encode i) = i.op := by
  cases i <;> exact opField_c64 ..

theorem decode_encode (i : Instr) : decode (encode i) = .ok i := by
  have hop : wordBits (encode i) 63 62 = i.op.toNat := by rw [← toNat_opField, opField_encode]
  cases i with
  | cvt y cb cr space range din dout =>
    obtain ⟨hspace, hrange, hdin, hdout⟩ := paramFields_c64 1 y cb cr space range din dout
    rw [decode_of_op_one hop]
    simp only [encode, field_c64_first, field_c64_second, field_c64_third, hspace, hrange, hdin, hdout]
  | plane ly lcb lcr space range din dout =>
    obtain ⟨hspace, hrange, hdin, hdout⟩ := paramFields_c64 2 ly lcb lcr space range din dout
    rw [decode_of_op_two hop]
    simp only [encode, field_c64_first, field_c64_second, field_c64_third, hspace, hrange, hdin, hdout]
  | data y cb cr rsv =>
    rw [decode_of_op_three hop]
    simp only [encode, field_c64_first, field_c64_second, field_c64_third, field_c64_low]

theorem encode_of_decode {w : Word} {i : Instr} (h : decode w = .ok i) : encode i = w := by
  obtain hop | hop | hop | hop := wordBits_op_cases w
  · cases (decode_of_op_zero hop).symm.trans h
  · cases (decode_of_op_one hop).symm.trans h
    have hfields := c64_fields w
    rwa [opField_eq_ofNat hop, ← packParams_fields] at hfields
  · cases (decode_of_op_two hop).symm.trans h
    have hfields := c64_fields w
    rwa [opField_eq_ofNat hop, ← packParams_fields] at hfields
  · cases (decode_of_op_three hop).symm.trans h
    have hfields := c64_fields w
    rwa [opField_eq_ofNat hop] at hfields

theorem decode_eq_ok_iff {w : Word} {i : Instr} : decode w = .ok i ↔ encode i = w :=
  ⟨encode_of_decode, fun h => h ▸ decode_encode i⟩

/-- A word without a command is one that no command encodes to (30_encoding.md R66). -/
theorem decode_eq_error_iff {w : Word} : decode w = .error .illegalOp ↔ ∀ i, encode i ≠ w := by
  refine ⟨fun herror i hi => ?_, fun hnone => ?_⟩
  · cases herror.symm.trans (decode_eq_ok_iff.mpr hi)
  · cases hdecode : decode w with
    | ok i => exact absurd (encode_of_decode hdecode) (hnone i)
    | error e => cases e; rfl

/-- Settles O1: the numbers are those of the five parts, and the rest is `decode_encode` and `encode_of_decode`. -/
theorem encodingAndDecodingAreInverse : Obligations.EncodingAndDecodingAreInverse := by
  refine ⟨fun y cb cr space range din dout => ?cvt, fun ly lcb lcr space range din dout => ?plane, fun y cb cr => ?data,
    decode_encode, fun _ _ => encode_of_decode, fun _ => decode_eq_error_iff, by decide⟩
  case cvt =>
    rw [encode, toNat_c64, toNat_packParams]
    simp only [BitVec.reduceToNat, Nat.add_assoc]
  case plane =>
    rw [encode, toNat_c64, toNat_packParams]
    simp only [BitVec.reduceToNat, Nat.add_assoc]
  case data =>
    rw [encode, toNat_c64]
    rfl

theorem exists_decode_cvt_iff {w : Word} :
    (∃ y cb cr space range din dout, decode w = .ok (.cvt y cb cr space range din dout)) ↔ opField w = 1 := by
  refine ⟨?_, fun hop => ⟨_, _, _, _, _, _, _, decode_of_op_one (by rw [← toNat_opField, hop]; rfl)⟩⟩
  rintro ⟨y, cb, cr, space, range, din, dout, h⟩
  rw [← encode_of_decode h, opField_encode, Instr.op]

theorem exists_decode_plane_iff {w : Word} :
    (∃ ly lcb lcr space range din dout, decode w = .ok (.plane ly lcb lcr space range din dout)) ↔ opField w = 2 := by
  refine ⟨?_, fun hop => ⟨_, _, _, _, _, _, _, decode_of_op_two (by rw [← toNat_opField, hop]; rfl)⟩⟩
  rintro ⟨ly, lcb, lcr, space, range, din, dout, h⟩
  rw [← encode_of_decode h, opField_encode, Instr.op]

theorem decode_eq_data_iff {w : Word} {y cb cr : Field16} {rsv : BitVec 14} :
    decode w = .ok (.data y cb cr rsv) ↔
      opField w = 3 ∧ y = field w 46 16 ∧ cb = field w 30 16 ∧ cr = field w 14 16 ∧ rsv = field w 0 14 := by
  rw [decode_eq_ok_iff, encode]
  conv_lhs => rw [← c64_fields w, c64_inj]
  rw [eq_comm (a := (3 : BitVec 2))]

/-- The mask of the opcode alone (30_encoding.md R55): it keeps the opcode and clears the other four parts. -/
theorem and_opMask_eq_iff {w : Word} (op : BitVec 2) : w &&& 0xC000000000000000 = c64 op 0 0 0 0 ↔ opField w = op := by
  conv_lhs => rw [← c64_fields w, opMask_eq, c64_and, c64_inj]
  rw [show opField w &&& 3 = opField w from BitVec.and_allOnes]
  simp

/-- DATA's own mask (30_encoding.md R55) also keeps the reserved bits. -/
theorem and_dataMask_eq_iff {w : Word} :
    w &&& 0xC000000000003FFF = c64 3 0 0 0 0 ↔ opField w = 3 ∧ field w 0 14 = 0 := by
  conv_lhs => rw [← c64_fields w, dataMask_eq, c64_and, c64_inj]
  rw [show opField w &&& 3 = opField w from BitVec.and_allOnes,
    show field w 0 14 &&& 0x3FFF = field w 0 14 from BitVec.and_allOnes]
  simp

/-- Settles O3: each match value is a word of C64 parts, so each mask asks for the opcode, and DATA's own for zero reserved bits
too. -/
theorem opcodeMasksSelectTheCommand : Obligations.OpcodeMasksSelectTheCommand := by
  intro w
  have hcvt : (0x4000000000000000 : Word) = c64 1 0 0 0 0 := by decide
  have hplane : (0x8000000000000000 : Word) = c64 2 0 0 0 0 := by decide
  refine ⟨?cvt, ?plane, ?data, ?wellFormedData⟩
  case cvt => rw [hcvt, and_opMask_eq_iff, exists_decode_cvt_iff]
  case plane => rw [hplane, and_opMask_eq_iff, exists_decode_plane_iff]
  case data =>
    conv_lhs => rhs; rw [opMask_eq]
    rw [and_opMask_eq_iff]
    simp [decode_eq_data_iff]
  case wellFormedData =>
    rw [opMask_eq, and_dataMask_eq_iff]
    refine ⟨fun ⟨hop, hrsv⟩ => ⟨_, _, _, 0, decode_eq_data_iff.mpr ⟨hop, rfl, rfl, rfl, hrsv.symm⟩, rfl⟩, ?_⟩
    rintro ⟨y, cb, cr, rsv, hdecode, hwf⟩
    obtain ⟨hop, -, -, -, rfl⟩ := decode_eq_data_iff.mp hdecode
    exact ⟨hop, by simpa [Instr.wellFormed] using hwf⟩

/-- Settles O4: the decoder evaluated on the five words of the table. -/
theorem tableWordsDecode : Obligations.TableWordsDecode := by
  refine ⟨?_, ?_, ?_, ?_, ?_⟩ <;> decide

end Sys2Proof.Machine
end

section
/-! SUPPORT. What one executed word does, said once. In every state a word either does one of six actions or is the beat that
stops (log entry 2), and which of the two, and which action, rests on `MODE` and in BATCH on `P` alone. Every frame, invariant
and noninterference fact is read off the action. -/

namespace Sys2Proof.Machine

/-- The six things an executed word can do to the block. -/
inductive Action
  | fail (e : Status) (op : BitVec 2)
  | pixel (t : Rgb)
  | emptyBatch
  | opening (p : BitVec 14) (len : Field16)
  | beat (st : Status) (t : Rgb)
  | abort (op : BitVec 2)

/-- The state after an action, in the operations of the model. -/
def Action.run : Action → State → State
  | .fail e op, s => failCommand e op s
  | .pixel t, s => respond ⟨.ok, 1, false, false, t⟩ s
  | .emptyBatch, s => respond ⟨.ok, 2, true, false, noRgb⟩ s
  | .opening p len, s => openBatch p len s
  | .beat st t, s => countBeat st t s
  | .abort op, s => abortBatch op s

/-- The one response of an action. -/
def Action.response : Action → State → Response
  | .fail e op, _ => ⟨e, op, false, false, noRgb⟩
  | .pixel t, _ => ⟨.ok, 1, false, false, t⟩
  | .emptyBatch, _ => ⟨.ok, 2, true, false, noRgb⟩
  | .opening _ _, _ => ⟨.ok, 2, false, false, noRgb⟩
  | .beat st t, s => ⟨st, 3, lastBeat s, lastBeat s && beatBerr st s, t⟩
  | .abort op, _ => ⟨.sequenceError, op, true, true, noRgb⟩

@[simp] theorem Action.rsp_run (a : Action) (s : State) : (a.run s).rsp = s.rsp ++ [responseWord (a.response s)] := by
  cases a <;> rfl

@[simp] theorem Action.cmd_run (a : Action) (s : State) : (a.run s).cmd = s.cmd := by cases a <;> rfl

@[simp] theorem Action.rspReady_run (a : Action) (s : State) : (a.run s).rspReady = s.rspReady := by cases a <;> rfl

/-- The actions a word can do in a mode, each with what 60_exceptions.md and 44_converter_commands.md ask of it. -/
inductive Allowed (w : Word) : Mode → Action → Prop
  | fail {e : Status} (he : e ≠ .ok) : Allowed w .idle (.fail e (opField w))
  | pixel {t : Rgb} (hop : opField w = 1) : Allowed w .idle (.pixel t)
  | emptyBatch (hop : opField w = 2) : Allowed w .idle .emptyBatch
  | opening (hop : opField w = 2) (hlegal : LegalP (field w 0 14)) (hlen : field w 46 16 ≠ 0) :
      Allowed w .idle (.opening (field w 0 14) (field w 46 16))
  | beat {st : Status} {t : Rgb} (hop : opField w = 3) (hpixel : st ≠ .ok → t = noRgb) : Allowed w .batch (.beat st t)
  | abort (hop : opField w ≠ 3) : Allowed w .batch (.abort (opField w))

/-- Two states a word cannot tell apart: the same `MODE` and, while a batch is open, the same `P`. -/
def SameContext (s s' : State) : Prop := s'.mode = s.mode ∧ (s.mode = .batch → s'.p = s.p)

theorem SameContext.refl (s : State) : SameContext s s := ⟨rfl, fun _ => rfl⟩

/-- In `s`, and wherever the word cannot tell the difference, it does the action `a`. -/
def Does (w : Word) (s : State) (a : Action) : Prop :=
  Allowed w s.mode a ∧ ∀ s', SameContext s s' → execute w s' = .next (a.run s')

theorem Does.allowed {w : Word} {s : State} {a : Action} (h : Does w s a) : Allowed w s.mode a := h.1

theorem Does.execute_eq {w : Word} {s : State} {a : Action} (h : Does w s a) : execute w s = .next (a.run s) :=
  h.2 s (.refl s)

theorem ne_ok_of_checkParams_error {space : BitVec 3} {range : BitVec 1} {din dout : BitVec 5} {e : Status}
    (h : checkParams cfg space range din dout = .error e) : e ≠ .ok := by
  rintro rfl
  obtain ⟨-, h'⟩ | ⟨-, -, h'⟩ | ⟨-, -, q, h', -⟩ := checkParams_by_numbers space range din dout <;> cases h'.symm.trans h

/-- Parameters that pass the check of a PLANE are legal in `P`. -/
theorem legalP_of_wordCheck_ok {w : Word} {q : Params} (h : wordCheck w = .ok q) : LegalP (field w 0 14) := by
  obtain ⟨hspace, -, hdin, hdout⟩ := pFields_of_word w
  obtain ⟨-, hbad⟩ | ⟨-, -, hbad⟩ | ⟨⟨hdi, hdd⟩, hseven, -⟩ := wordCheck_cases w
  · cases hbad.symm.trans h
  · cases hbad.symm.trans h
  · rw [← toNat_field_eq_wordBits w (len := 3) rfl] at hseven
    rw [← toNat_field_eq_wordBits w (len := 5) rfl] at hdi hdd
    rw [LegalP, hspace, hdin, hdout]
    exact ⟨by omega, hdi, hdd⟩

theorem cvt_does {w : Word} (hop : wordBits w 63 62 = 1) {s : State} (hidle : s.mode = .idle) : ∃ a, Does w s a := by
  have hop' : opField w = 1 := opField_eq_ofNat hop
  cases hcheck : wordCheck w with
  | error e =>
    refine ⟨.fail e (opField w), hidle ▸ .fail (ne_ok_of_checkParams_error hcheck), fun s' hs' => ?_⟩
    exact execute_of_failedCheck (hs'.1.trans hidle) (.inl hop) hcheck
  | ok q =>
    obtain ⟨⟨st, t⟩, hconv⟩ := convStatus_ok q (field w 46 16).toNat (field w 30 16).toNat (field w 14 16).toNat
    have hexec (s' : State) (hs' : SameContext s s') : execute w s' = .next (respond ⟨st, 1, false, false, t⟩ s') := by
      rw [execute_of_op_one hop, execCvt_of_ok (hs'.1.trans hidle) hcheck hconv]
    obtain ⟨-, rfl, rfl⟩ | ⟨-, rfl, -⟩ := convStatus_cases hconv
    · exact ⟨.fail .sampleOutOfRange (opField w), hidle ▸ .fail (by decide), by rw [hop']; exact hexec⟩
    · exact ⟨.pixel t, hidle ▸ .pixel hop', hexec⟩

theorem plane_does {w : Word} (hop : wordBits w 63 62 = 2) {s : State} (hidle : s.mode = .idle) : ∃ a, Does w s a := by
  have hop' : opField w = 2 := opField_eq_ofNat hop
  cases hcheck : wordCheck w with
  | error e =>
    refine ⟨.fail e (opField w), hidle ▸ .fail (ne_ok_of_checkParams_error hcheck), fun s' hs' => ?_⟩
    exact execute_of_failedCheck (hs'.1.trans hidle) (.inr hop) hcheck
  | ok q =>
    have hexec (s' : State) (hs' : SameContext s s') : execute w s' =
        if ¬ (field w 46 16 = field w 30 16 ∧ field w 30 16 = field w 14 16) then .next (failCommand .planeLengthMismatch 2 s')
        else if field w 46 16 = 0 then .next (respond ⟨.ok, 2, true, false, noRgb⟩ s')
        else .next (openBatch (field w 0 14) (field w 46 16) s') := by
      rw [wordCheck] at hcheck
      simp only [execute_of_op_two hop, execPlane, hs'.1.trans hidle, hcheck, packParams_fields]
    by_cases hlengths : field w 46 16 = field w 30 16 ∧ field w 30 16 = field w 14 16
    · by_cases hzero : field w 46 16 = 0
      · exact ⟨.emptyBatch, hidle ▸ .emptyBatch hop', fun s' hs' => by
          rw [hexec s' hs', if_neg (not_not_intro hlengths), if_pos hzero, Action.run]⟩
      · have hlegal := legalP_of_wordCheck_ok hcheck
        exact ⟨.opening (field w 0 14) (field w 46 16), hidle ▸ .opening hop' hlegal hzero, fun s' hs' => by
          rw [hexec s' hs', if_neg (not_not_intro hlengths), if_neg hzero, Action.run]⟩
    · exact ⟨.fail .planeLengthMismatch (opField w), hidle ▸ .fail (by decide), fun s' hs' => by
        rw [hexec s' hs', if_pos hlengths, hop', Action.run]⟩

theorem idle_does (w : Word) {s : State} (hidle : s.mode = .idle) : ∃ a, Does w s a := by
  obtain hop | hop | hop | hop := wordBits_op_cases w
  · exact ⟨.fail .illegalCommand (opField w), hidle ▸ .fail (by decide), fun s' hs' => by
      rw [execute_illegal_of_idle (hs'.1.trans hidle) hop, opField_eq_ofNat hop]; rfl⟩
  · exact cvt_does hop hidle
  · exact plane_does hop hidle
  · exact ⟨.fail .sequenceError (opField w), hidle ▸ .fail (by decide), fun s' hs' => by
      rw [execute_data_of_idle (hs'.1.trans hidle) hop, opField_eq_ofNat hop]; rfl⟩

/-- A beat of an open batch whose `P` holds parameters: its action is a counted beat. -/
theorem data_does {w : Word} (hop : wordBits w 63 62 = 3) {s : State} (hbatch : s.mode = .batch) {q : Params}
    (hparams : paramsOfP cfg s.p = .ok q) : ∃ st t, Does w s (.beat st t) := by
  have hop' : opField w = 3 := opField_eq_ofNat hop
  by_cases hrsv : wordBits w 13 0 = 0
  · obtain ⟨⟨st, t⟩, hconv⟩ := convStatus_ok q (field w 46 16).toNat (field w 30 16).toNat (field w 14 16).toNat
    have hpixel : st ≠ .ok → t = noRgb := by
      obtain ⟨-, -, rfl⟩ | ⟨-, rfl, -⟩ := convStatus_cases hconv <;> simp
    exact ⟨st, t, hbatch ▸ .beat hop' hpixel, fun s' hs' =>
      execute_data_of_ok (hs'.1.trans hbatch) hop hrsv (hs'.2 hbatch ▸ hparams) hconv⟩
  · exact ⟨.illegalCommand, noRgb, hbatch ▸ .beat hop' fun _ => rfl, fun s' hs' =>
      execute_data_of_reserved (hs'.1.trans hbatch) hop hrsv⟩

/-- Every word in every state: it does one action, or it is a beat under parameters that no accepted PLANE can have written. -/
theorem does_or_faults (w : Word) (s : State) :
    (∃ a, Does w s a) ∨
      (s.mode = .batch ∧ ∃ e, paramsOfP cfg s.p = .error e) ∧ execute w s = .fault .illegalParameters := by
  cases hmode : s.mode with
  | idle => exact .inl (idle_does w hmode)
  | batch =>
    by_cases hop : wordBits w 63 62 = 3
    case neg =>
      have hop' : opField w ≠ 3 := fun h => hop (by rw [← toNat_opField, h]; rfl)
      exact .inl ⟨.abort (opField w), hmode ▸ .abort hop', fun s' hs' => execute_of_batch (hs'.1.trans hmode) hop⟩
    cases hparams : paramsOfP cfg s.p with
    | ok q =>
      obtain ⟨st, t, hdoes⟩ := data_does hop hmode hparams
      exact .inl ⟨_, hdoes⟩
    | error e =>
      by_cases hrsv : wordBits w 13 0 = 0
      · refine .inr ⟨⟨rfl, e, rfl⟩, ?_⟩
        rw [execute_of_op_three hop, reservedField_eq_zero_iff.mpr hrsv, execData_of_illegalParams hmode hparams]
      · exact .inl ⟨.beat .illegalCommand noRgb, hmode ▸ .beat (opField_eq_ofNat hop) fun _ => rfl, fun s' hs' =>
          execute_data_of_reserved (hs'.1.trans hmode) hop hrsv⟩

/-- A word that answers a next state has done an action. -/
theorem does_of_execute {w : Word} {s t : State} (h : execute w s = .next t) : ∃ a, Does w s a ∧ t = a.run s := by
  obtain ⟨a, ha⟩ | ⟨-, hfault⟩ := does_or_faults w s
  · exact ⟨a, ha, Host.Outcome.next.inj (h.symm.trans ha.execute_eq)⟩
  · cases hfault.symm.trans h

/-- With the batch invariant every word does an action. -/
theorem does_of_batchInv {s : State} (hinv : BatchInv s) (w : Word) : ∃ a, Does w s a := by
  obtain hdoes | ⟨⟨hbatch, e, herror⟩, -⟩ := does_or_faults w s
  · exact hdoes
  · obtain ⟨q, hparams⟩ := paramsOfP_of_legalP (hinv.2 hbatch).2
    cases herror.symm.trans hparams

/-- A command executes as its encoding does. -/
theorem exec_eq_execute_encode (i : Instr) (s : State) : exec i s = execute (encode i) s := by
  rw [execute, decode_encode]

/-- A response echoes the opcode of the word it answers (30_encoding.md R56). -/
theorem Allowed.response_op {w : Word} {s : State} {a : Action} (h : Allowed w s.mode a) : (a.response s).op = opField w := by
  generalize s.mode = m at h
  cases h with
  | fail | abort => rfl
  | pixel hop | emptyBatch hop | opening hop | beat hop => exact hop.symm

end Sys2Proof.Machine
end

section
/-! SUPPORT. Statements on one word or one step, read off the word's action: the response, the frames, the two invariants, and what
a word cannot observe (10_state.md section 3; 20_memory.md section 3; 30_encoding.md section 2; 60_exceptions.md sections 2
and 3). -/

namespace Sys2Proof.Machine

/-- Settles O5: `respond` by `respond_eq_rsp64`, and each slice is a field of the response word read back. -/
theorem responseWordLayout : Obligations.ResponseWordLayout := by
  intro x s hr hg hb
  refine ⟨respond_eq_rsp64 x.status x.op x.last x.berr ⟨hr, hg, hb⟩ s, ?_⟩
  simp only [← toNat_field_eq_wordBits (responseWord _) (len := 4) (rfl : 63 - 60 + 1 = 4),
    ← toNat_field_eq_wordBits (responseWord _) (len := 2) (rfl : 59 - 58 + 1 = 2),
    ← toNat_field_eq_wordBits (responseWord _) (len := 1) (rfl : 57 - 57 + 1 = 1),
    ← toNat_field_eq_wordBits (responseWord _) (len := 1) (rfl : 56 - 56 + 1 = 1),
    ← toNat_field_eq_wordBits (responseWord _) (len := 8) (rfl : 55 - 48 + 1 = 8),
    ← toNat_field_eq_wordBits (responseWord _) (len := 16) (rfl : 47 - 32 + 1 = 16),
    ← toNat_field_eq_wordBits (responseWord _) (len := 16) (rfl : 31 - 16 + 1 = 16),
    ← toNat_field_eq_wordBits (responseWord _) (len := 16) (rfl : 15 - 0 + 1 = 16)]
  rw [← rspStatus, ← rspOp, ← rspLast, ← rspBerr, ← rspReserved, ← rspR, ← rspG, ← rspB]
  simpa using ⟨hr, hg, hb⟩

/-! ### The step -/

theorem step_of_cmd {s : State} {w : Word} {ws : List Word} (hready : s.rspReady = true) (hcmd : s.cmd = w :: ws) :
    step s = execute w { s with cmd := ws } := by
  rw [step, cmdPop_of_ready hready hcmd]

theorem step_of_waiting {s : State} (h : s.rspReady = false ∨ s.cmd = []) : step s = .next s := by
  rw [step, cmdPop_eq_none h]

/-- No action reads CMD. -/
theorem Action.run_popped (a : Action) (s : State) (ws : List Word) :
    a.run { s with cmd := ws } = { a.run s with cmd := ws } := by
  cases a <;> rfl

theorem step_of_does {s : State} {w : Word} {ws : List Word} {a : Action} (hready : s.rspReady = true) (hcmd : s.cmd = w :: ws)
    (h : Does w s a) : step s = .next { a.run s with cmd := ws } := by
  rw [step_of_cmd hready hcmd, ← a.run_popped]
  exact h.2 _ ⟨rfl, fun _ => rfl⟩

/-- What a step that goes on has done: waited, or popped a word and done its action. -/
theorem step_next_cases {s t : State} (h : step s = .next t) :
    t = s ∨ ∃ w ws a, s.cmd = w :: ws ∧ Does w s a ∧ t = { a.run s with cmd := ws } := by
  obtain ⟨hwait, -⟩ | ⟨w, ws, -, hcmd, hexec⟩ := step_cases s
  · exact .inl (Host.Outcome.next.inj (h.symm.trans hwait))
  · obtain ⟨a, hdoes, ht⟩ := does_of_execute (hexec.symm.trans h)
    exact .inr ⟨w, ws, a, hcmd, hdoes, ht.trans (a.run_popped s ws)⟩

/-- Settles O7. -/
theorem stepRunsTheDecodedCommand : Obligations.StepRunsTheDecodedCommand := by
  intro s w ws i hready hcmd hdecode
  rw [step_of_cmd hready hcmd, execute, hdecode]

/-- Settles O8: the failure in IDLE and the abort in BATCH, with their response words evaluated. -/
theorem stepAnswersAnIllegalWord : Obligations.StepAnswersAnIllegalWord := by
  intro s w ws hready hcmd hdecode
  rw [step_of_cmd hready hcmd, execute, hdecode]
  cases hmode : s.mode with
  | idle => simp only [execIllegal, failCommand_eq]; rfl
  | batch => simp only [execIllegal, abortBatch_eq]; rfl

/-- Settles O9. -/
theorem stepWaitsUnchanged : Obligations.StepWaitsUnchanged :=
  ⟨fun _ h => step_of_waiting (.inl h), fun _ h => step_of_waiting (.inr h)⟩

/-! ### The batch invariant -/

/-- Settles O11: reset is idle with nothing of a batch left, and no response waits. -/
theorem resetIsGood : Obligations.ResetIsGood :=
  ⟨⟨fun _ => ⟨rfl, rfl⟩, nofun⟩, nofun⟩

theorem Allowed.run_batchInv {w : Word} {s : State} {a : Action} (h : Allowed w s.mode a) (hinv : BatchInv s) :
    BatchInv (a.run s) := by
  generalize hmode : s.mode = m at h
  cases h with
  | fail he => exact hinv
  | pixel hop => exact hinv
  | emptyBatch hop => exact hinv
  | abort hop => simp [Action.run, BatchInv]
  | opening hop hlegal hlen => exact ⟨nofun, fun _ => ⟨hlen, hlegal⟩⟩
  | beat hop hpixel =>
    obtain ⟨-, hlegal⟩ := hinv.2 hmode
    by_cases hlast : lastBeat s = true
    · have hrem : s.rem - 1 = 0 := eq_of_beq hlast
      rw [Action.run, BatchInv, countBeat_mode, countBeat_rem, countBeat_berr, hlast, hrem]
      exact ⟨fun _ => ⟨rfl, rfl⟩, nofun⟩
    · have hrem : s.rem - 1 ≠ 0 := fun h => hlast (beq_iff_eq.mpr h)
      exact ⟨fun hidle => by simp [Action.run, hlast, hmode] at hidle, fun _ => ⟨hrem, hlegal⟩⟩

/-- Settles O12: a step waits, or pops a word and does its action. -/
theorem stepKeepsTheBatchInvariant : Obligations.StepKeepsTheBatchInvariant := by
  intro s t hinv hstep
  obtain rfl | ⟨w, ws, a, -, hdoes, rfl⟩ := step_next_cases hstep
  · exact hinv
  · exact hdoes.allowed.run_batchInv hinv

/-- Settles O13: with the invariant every word does an action. -/
theorem goodStatesNeverStop : Obligations.GoodStatesNeverStop := by
  intro s hinv
  obtain ⟨hwait, -⟩ | ⟨w, ws, hready, hcmd, -⟩ := step_cases s
  · exact ⟨_, hwait⟩
  · obtain ⟨a, hdoes⟩ := does_of_batchInv hinv w
    exact ⟨_, step_of_does hready hcmd hdoes⟩

/-! ### Responses -/

@[simp] theorem statusCode_eq_ofNat_zero {e : Status} : statusCode e = 0#4 ↔ e = .ok := statusCode_eq_zero

@[simp] theorem ofBool_eq_one_iff {b : Bool} : BitVec.ofBool b = 1#1 ↔ b = true := by cases b <;> decide

/-- When a response word keeps to 30_encoding.md R57, R59, R60, by its seven arguments. -/
theorem goodResponse_responseWord {x : Response} (hberr : x.berr = true → x.last = true)
    (hpixel : x.status ≠ .ok ∨ x.op = 2 → x.rgb = noRgb) : GoodResponse (responseWord x) := by
  obtain ⟨st, op, last, berr, t⟩ := x
  refine ⟨rspReserved_responseWord _, ?_, ?_, fun h => ?_⟩
  · rw [rspStatus_responseWord]
    exact statusCode_toNat_le st
  · rw [rspBerr_responseWord, rspLast_responseWord]
    cases berr <;> cases last <;> simp_all
  · rw [rspStatus_responseWord, rspOp_responseWord, Ne, statusCode_eq_zero] at h
    have ht : t = noRgb := hpixel h
    simp [ht, noRgb]

theorem Allowed.goodResponse {w : Word} {s : State} {a : Action} (h : Allowed w s.mode a) :
    GoodResponse (responseWord (a.response s)) := by
  generalize s.mode = m at h
  cases h with
  | fail => exact goodResponse_responseWord nofun fun _ => rfl
  | pixel => exact goodResponse_responseWord nofun fun h => by simp [Action.response] at h
  | emptyBatch => exact goodResponse_responseWord nofun fun _ => rfl
  | opening => exact goodResponse_responseWord nofun fun _ => rfl
  | beat hop hpixel =>
    refine goodResponse_responseWord (fun h => ?_) fun h => hpixel ?_
    · exact (Bool.and_eq_true_iff.mp h).1
    · simpa [Action.response] using h
  | abort => exact goodResponse_responseWord (fun _ => rfl) fun _ => rfl

/-- Settles O14: the one response a step adds is good. -/
theorem stepKeepsResponsesGood : Obligations.StepKeepsResponsesGood := by
  intro s t hgood hstep
  obtain rfl | ⟨w, ws, a, -, hdoes, rfl⟩ := step_next_cases hstep
  · exact hgood
  · intro r hr
    rw [Action.rsp_run, List.mem_append, List.mem_singleton] at hr
    obtain hr | rfl := hr
    · exact hgood r hr
    · exact hdoes.allowed.goodResponse

/-- Settles O15: only the reset writes an element of the block's state, and only a take and the reset change RSP, which they
shorten. -/
theorem hostActionsKeepTheInvariants : Obligations.HostActionsKeepTheInvariants := by
  intro a s hinv hgood
  cases a with
  | push w => simpa only [BatchInv, ResponsesGood, hostAct_push_mode, hostAct_push_p, hostAct_push_rem, hostAct_push_berr,
      hostAct_push_rsp] using ⟨hinv, hgood⟩
  | take => exact ⟨hinv, fun r hr => hgood r (List.mem_of_mem_tail hr)⟩
  | setReady ready => exact ⟨hinv, hgood⟩
  | reset => exact resetIsGood

/-- Settles O30: each action's response says whether the batch closes and whether it failed. -/
theorem closingBitsOfAResponse : Obligations.ClosingBitsOfAResponse := by
  intro s w hinv
  obtain ⟨a, hdoes⟩ := does_of_batchInv hinv w
  refine ⟨a.run s, responseWord (a.response s), hdoes.execute_eq, Action.rsp_run a s, ?_⟩
  have hallowed := hdoes.allowed
  rw [rspOp_responseWord, hallowed.response_op, toNat_opField, rspLast_responseWord, rspBerr_responseWord,
    rspStatus_responseWord]
  refine ⟨rfl, ?_⟩
  rw [← toNat_opField]
  generalize hmode : s.mode = m at hallowed
  cases hallowed with
  | fail he => simp [Action.response, he]
  | pixel hop => simp [Action.response, Action.run, hop]
  | emptyBatch hop => simp [Action.response, Action.run, hop, hmode, statusCode]
  | opening hop => simp [Action.response, Action.run]
  | abort hop => simp [Action.response, Action.run, statusCode]
  | beat hop hpixel =>
    cases hlast : lastBeat s <;> simp [Action.response, Action.run, hlast, hmode, beatBerr]

/-- Settles O29: the statuses are those of the word's causes; the words of the table by evaluation. -/
theorem statusesPerCommandAndMode : Obligations.StatusesPerCommandAndMode := by
  refine ⟨fun s w hinv => ?table, ?idle, ?batch⟩
  case table =>
    obtain ⟨t, x, hexec, hrsp, hcause⟩ := answersItsCause_of_batchInv hinv w
    refine ⟨t, responseWord x, hexec, hrsp, ?_⟩
    have habort : s.mode = .batch → wordBits w 63 62 ≠ 3 → t.mode = .idle := fun hbatch hop => by
      cases (execute_of_batch hbatch hop).symm.trans hexec
      rfl
    rw [rspStatus_responseWord]
    generalize x.status = st at hcause
    cases hcause with
    | dataInIdle hidle hop => simp [hidle, hop, statusCode]
    | otherInBatch hbatch hop => simp [hbatch, hop, statusCode, habort hbatch hop]
    | illegalOp hidle hop => simp [hidle, hop, statusCode]
    | reservedBits hbatch hop hrsv => simp [hbatch, hop, statusCode]
    | depth hidle hop hdepths => obtain hop | hop := hop <;> simp [hidle, hop, statusCode]
    | space hidle hop hdepths hspace => obtain hop | hop := hop <;> simp [hidle, hop, statusCode]
    | lengths hidle hop hdepths hspace hlengths => simp [hidle, hop, statusCode]
    | planeOk hidle hop hdepths hspace hlengths => simp [hidle, hop, statusCode]
    | cvtSample hidle hop hdepths hspace hout => simp [hidle, hop, statusCode]
    | cvtOk hidle hop hdepths hspace hin => simp [hidle, hop, statusCode]
    | dataSample hbatch hop hrsv hout => simp [hbatch, hop, statusCode]
    | dataOk hbatch hop hrsv hin => simp [hbatch, hop, statusCode]
  case idle =>
    simp only [List.forall_mem_cons, List.not_mem_nil, false_implies, implies_true, and_true]
    exact ⟨⟨_, _, rfl, rfl, rfl⟩, ⟨_, _, rfl, rfl, rfl⟩, ⟨_, _, rfl, rfl, rfl⟩, ⟨_, _, rfl, rfl, rfl⟩, ⟨_, _, rfl, rfl, rfl⟩,
      ⟨_, _, rfl, rfl, rfl⟩, ⟨_, _, rfl, rfl, rfl⟩, ⟨_, _, rfl, rfl, rfl⟩, ⟨_, _, rfl, rfl, rfl⟩, ⟨_, _, rfl, rfl, rfl⟩⟩
  case batch =>
    simp only [List.forall_mem_cons, List.not_mem_nil, false_implies, implies_true, and_true]
    exact ⟨⟨_, _, rfl, rfl, rfl⟩, ⟨_, _, rfl, rfl, rfl⟩, ⟨_, _, rfl, rfl, rfl⟩, ⟨_, _, rfl, rfl, rfl⟩, ⟨_, _, rfl, rfl, rfl⟩,
      ⟨_, _, rfl, rfl, rfl⟩⟩

/-- Settles O57: the zero word has no opcode, so it fails in IDLE and aborts in BATCH. -/
theorem zeroWordResynchronises : Obligations.ZeroWordResynchronises := by
  intro s
  cases hmode : s.mode with
  | idle => exact ⟨_, _, execute_illegal_of_idle hmode (by decide), rfl, hmode, by simp [statusCode], nofun⟩
  | batch => exact ⟨_, _, execute_of_batch hmode (by decide), rfl, rfl, nofun, by simp [statusCode]⟩

/-! ### Frames -/

/-- Settles O31: of the actions in IDLE only a failure has a nonzero status, and it only responds. -/
theorem failuresInIdleLeaveTheState : Obligations.FailuresInIdleLeaveTheState := by
  intro s t w r hidle hexec hrsp hstatus
  obtain ⟨a, hdoes, rfl⟩ := does_of_execute hexec
  have hr : r = responseWord (a.response s) := by simpa using hrsp.symm
  rw [hr, rspStatus_responseWord, Ne, statusCode_eq_zero] at hstatus
  have hallowed := hdoes.allowed
  rw [hidle] at hallowed
  cases hallowed with
  | fail => rw [hr]; rfl
  | pixel => exact absurd rfl hstatus
  | emptyBatch => exact absurd rfl hstatus
  | opening => exact absurd rfl hstatus

/-- Settles O32. -/
theorem everyCommandAddsOneResponse : Obligations.EveryCommandAddsOneResponse := by
  intro i s t hexec
  rw [exec_eq_execute_encode] at hexec
  obtain ⟨a, hdoes, rfl⟩ := does_of_execute hexec
  refine ⟨a.cmd_run s, a.rspReady_run s, _, a.rsp_run s, ?_⟩
  rw [rspOp_responseWord, hdoes.allowed.response_op, opField_encode]

/-- Settles O33: which fields each allowed action writes. -/
theorem commandFrames : Obligations.CommandFrames := by
  intro i s t hexec
  rw [exec_eq_execute_encode] at hexec
  obtain ⟨a, hdoes, rfl⟩ := does_of_execute hexec
  have hallowed := hdoes.allowed
  rw [← opField_encode i, ofNat_wordBits (encode i) (len := 14) rfl]
  clear hexec hdoes
  generalize encode i = w at hallowed ⊢
  generalize hmode : s.mode = m at hallowed
  cases hallowed with
  | fail => simp [Action.run, hmode]
  | pixel hop => simp [Action.run, hmode]
  | emptyBatch hop => simp [Action.run, hmode]
  | opening hop hlegal hlen => simpa [Action.run, hop] using And.intro hlen hlegal
  | beat hop hpixel => simp [Action.run, hop, hmode, lastBeat]
  | abort hop => exact ⟨nofun, nofun, fun _ h => absurd h hop, fun _ _ => ⟨rfl, rfl, rfl, rfl⟩⟩

/-- Settles O19: legal numbers pass the check, so a nonzero length opens the batch. -/
theorem planeOpensABatch : Obligations.PlaneOpensABatch := by
  intro s n space range din dout hidle hn hspace hdin hdout
  obtain ⟨hbad, -⟩ | ⟨-, hseven, -⟩ | ⟨-, -, q, hcheck, -⟩ := checkParams_by_numbers space range din dout
  · exact absurd ⟨hdin, hdout⟩ hbad
  · omega
  · simp only [exec, execPlane, hidle, hcheck, and_self, not_true, if_false, if_neg hn, openBatch,
      respond_eq_rsp64 _ _ _ _ fitsResponse_noRgb]
    rfl

/-- Settles O58: a push by `cmdReady`, and `cmdReady` by the number of outstanding commands. -/
theorem pushesWaitForRoom : Obligations.PushesWaitForRoom := by
  refine ⟨fun s w hroom => ?_, fun s w hready hcmd hrsp => ?_, fun s w hfull hbusy => ?_⟩
  · rw [hostAct, if_pos (cmdReady_iff.mpr (.inr hroom))]
  · rw [hostAct, if_pos (cmdReady_iff.mpr (.inl ⟨hready, hcmd, hrsp⟩)), hcmd, List.nil_append]
  · have hnot : ¬ cmdReady s = true := by
      rw [cmdReady_iff]
      rintro (⟨hready, hcmd, hrsp⟩ | hroom)
      · simp [hready, hcmd, hrsp] at hbusy
      · exact absurd hroom (Nat.not_lt.mpr hfull)
    rw [hostAct, if_neg hnot]

/-! ### What a word cannot observe -/

/-- `BERR` goes into the next `BERR` and into the bit `berr` of a response, and nowhere else. -/
theorem Action.response_berr (a : Action) (s : State) (flag : Bool) :
    a.response { s with berr := flag } = { a.response s with berr := (a.response { s with berr := flag }).berr } := by
  cases a <;> rfl

/-- Settles O50: `BERR` does not choose the action, and an action's response has it in the bit `berr` only. -/
theorem batchErrorFlagLeavesPixelsAlone : Obligations.BatchErrorFlagLeavesPixelsAlone := by
  intro s flag i t hexec
  rw [exec_eq_execute_encode] at hexec
  obtain ⟨a, hdoes, rfl⟩ := does_of_execute hexec
  refine ⟨a.run { s with berr := flag }, _, _, ?_, a.rsp_run s, a.rsp_run { s with berr := flag }, ?_⟩
  · rw [exec_eq_execute_encode]
    exact hdoes.2 _ ⟨rfl, fun _ => rfl⟩
  · rw [a.response_berr s flag]
    simp

end Sys2Proof.Machine
end

section
/-! SUPPORT. The normalizer by numbers: its table, the properties of 41_range_normalizer.md R92, and the bounds it gives the Kr/Kb
integers (42_colorspace_matrix_engine.md R98). -/

namespace Sys2Proof.Machine

/-- Settles O34: the derived quantities of each depth evaluated. -/
theorem normByTheDepthTable : Obligations.NormByTheDepthTable := by
  intro y cb cr
  simp [normYCC, scaleOf, midOf, fullScale, depthBits]

/-- Settles O36: the table evaluated; BT470BG and BT601 have one descriptor. -/
theorem descriptorTable : Obligations.DescriptorTable :=
  ⟨rfl, rfl, rfl, rfl, rfl, by decide, ktabDefault_valid, fun _ _ _ _ _ _ => rfl⟩

/-- The YCgCo matrix of R77 on integers. -/
theorem matrixYCgCo_default (n : UnitYCC) :
    matrixYCgCo ycgcoDefault n =
      ⟨⟨n.ny * n.dc + (n.ncr - n.ncb) * n.dy, n.dy * n.dc⟩, ⟨n.ny * n.dc + n.ncb * n.dy, n.dy * n.dc⟩,
        ⟨n.ny * n.dc - (n.ncb + n.ncr) * n.dy, n.dy * n.dc⟩⟩ := by
  simp only [matrixYCgCo, matrixRow, ycgcoDefault, UnitRgb.mk.injEq, Ratio.mk.injEq, and_true]
  refine ⟨?_, ?_, ?_⟩ <;> ring

/-- Settles O38: YCgCo's descriptor is the matrix of R77 for every table. -/
theorem yCgCoIsItsFixedMatrix : Obligations.YCgCoIsItsFixedMatrix := by
  refine ⟨fun k r d y cb cr => ?_, by decide⟩
  have hunit : unitRgb { cfg with ktab := k } .ycgco r d y cb cr = matrixYCgCo ycgcoDefault (normYCC y cb cr r d) := rfl
  simp only [hunit, matrixYCgCo_default, and_self]

/-- The denominators rest on the range and the depth alone. -/
theorem normYCC_den_eq (y y' cb cb' cr cr' : Int) (r : SignalRange) (d : BitDepth) :
    (normYCC y cb cr r d).dy = (normYCC y' cb' cr' r d).dy ∧ (normYCC y cb cr r d).dc = (normYCC y' cb' cr' r d).dc := by
  cases r <;> exact ⟨rfl, rfl⟩

/-- The numerators are the samples less an offset. -/
theorem normYCC_num_sub (y y' cb cb' cr cr' : Int) (r : SignalRange) (d : BitDepth) :
    (normYCC y' cb' cr' r d).ny - (normYCC y cb cr r d).ny = y' - y ∧
      (normYCC y' cb' cr' r d).ncb - (normYCC y cb cr r d).ncb = cb' - cb ∧
      (normYCC y' cb' cr' r d).ncr - (normYCC y cb cr r d).ncr = cr' - cr := by
  cases r <;> dsimp only [normYCC] <;> exact ⟨by ring, by ring, by ring⟩

theorem normYCC_center (y : Int) (r : SignalRange) (d : BitDepth) :
    (normYCC y (2 ^ (depthBits d - 1)) (2 ^ (depthBits d - 1)) r d).ncb = 0 ∧
      (normYCC y (2 ^ (depthBits d - 1)) (2 ^ (depthBits d - 1)) r d).ncr = 0 := by
  cases r <;> exact ⟨sub_self _, sub_self _⟩

theorem unit_lt_of_num_lt {n n' d d' : Int} (hd : 0 < d) (hdd : d = d') (h : n < n') : (n : ℚ) / d < n' / d' := by
  have hd' : (0 : ℚ) < d := by exact_mod_cast hd
  subst hdd
  gcongr

theorem unit_le_of_num_le {n n' d d' : Int} (hd : 0 < d) (hdd : d = d') (h : n ≤ n') : (n : ℚ) / d ≤ n' / d' := by
  have hd' : (0 : ℚ) < d := by exact_mod_cast hd
  subst hdd
  gcongr

/-- A factor common to numerator and denominator cancels in a unit value. -/
theorem unit_cancel {n d k n' d' : Int} (hk : k ≠ 0) (hn : n' = n * k) (hd : d' = d * k) : (n' : ℚ) / d' = n / d := by
  have hk' : (k : ℚ) ≠ 0 := by exact_mod_cast hk
  rw [hn, hd, Int.cast_mul, Int.cast_mul, mul_div_mul_right _ _ hk']

theorem scaleOf_d8 : scaleOf .d8 = 1 := rfl

/-- Studio at any depth is studio at 8 bits with every number times `s` (00_scope.md R8). -/
theorem normYCC_studio_scaled (y cb cr : Int) (d : BitDepth) :
    let n := normYCC (y * scaleOf d) (cb * scaleOf d) (cr * scaleOf d) .studio d
    let m := normYCC y cb cr .studio .d8
    n.ny = m.ny * scaleOf d ∧ n.dy = m.dy * scaleOf d ∧ n.ncb = m.ncb * scaleOf d ∧ n.ncr = m.ncr * scaleOf d ∧
      n.dc = m.dc * scaleOf d := by
  simp only [normYCC, midOf_eq, scaleOf_d8]
  refine ⟨?_, ?_, ?_, ?_, ?_⟩ <;> ring

/-- The bounds at depth 16, from the table of numbers. -/
theorem normYCC_d16_bounds {y cb cr : Nat} (r : SignalRange) (hy : y ≤ 65535) (hcb : cb ≤ 65535) (hcr : cr ≤ 65535) :
    let n := normYCC y cb cr r .d16
    n.ny ≤ 65535 ∧ -4096 ≤ n.ny ∧ -32768 ≤ n.ncb ∧ n.ncb ≤ 32767 ∧ -32768 ≤ n.ncr ∧ n.ncr ≤ 32767 ∧
      0 < n.dy ∧ n.dy ≤ 65535 ∧ 0 < n.dc ∧ n.dc ≤ 65535 := by
  obtain ⟨-, -, -, hstudio, -, -, -, hfull⟩ := normByTheDepthTable y cb cr
  cases r with
  | studio => rw [hstudio]; dsimp only; omega
  | full => rw [hfull]; dsimp only; omega

/-- Settles O35: numerators are samples less an offset over a common positive denominator; in studio all five integers carry the
factor `s`. -/
theorem normProperties : Obligations.NormProperties := by
  refine ⟨fun y r d => ?center, fun y y' c c' r d hy hc => ?increasing, fun y cb cr d => ?cancels, ?fullDoesNot,
    fun y cb cr r hy hcb hcr => normYCC_d16_bounds r hy hcb hcr⟩
  case center =>
    obtain ⟨hcb, hcr⟩ := normYCC_center y r d
    exact ⟨hcb, hcr, midOf_eq d⟩
  case increasing =>
    obtain ⟨hdy, hdc⟩ := normYCC_den_eq y y' c c' c c' r d
    obtain ⟨hny, hncb, hncr⟩ := normYCC_num_sub y y' c c' c c' r d
    have hdy0 := normYCC_dy_pos y c c r d
    have hdc0 := normYCC_dc_pos y c c r d
    exact ⟨unit_lt_of_num_lt hdy0 hdy (by omega), unit_lt_of_num_lt hdc0 hdc (by omega),
      unit_lt_of_num_lt hdc0 hdc (by omega)⟩
  case cancels =>
    have hs : scaleOf d ≠ 0 := (scaleOf_pos d).ne'
    obtain ⟨hny, hdy, hncb, hncr, hdc⟩ := normYCC_studio_scaled y cb cr d
    exact ⟨unit_cancel hs hny hdy, unit_cancel hs hncb hdc, unit_cancel hs hncr hdc⟩
  case fullDoesNot => norm_num [normYCC, fullScale, depthBits]

/-! ### The Kr/Kb integers at depth 16 -/

/-- Coefficients that meet R79 over a common denominator of at most 10000, as in the five families. -/
structure SmallKrKb (e : KrKb) : Prop where
  a_pos : 0 < e.a
  b_pos : 0 < e.b
  sum_lt : e.a + e.b < e.k
  k_le : e.k ≤ 10000

/-- The normalized samples that 16-bit inputs give. -/
structure Norm16 (n : UnitYCC) : Prop where
  ny_le : |n.ny| ≤ 65535
  ncb_le : |n.ncb| ≤ 32768
  ncr_le : |n.ncr| ≤ 32768
  dy_pos : 0 < n.dy
  dy_le : n.dy ≤ 65535
  dc_pos : 0 < n.dc
  dc_le : n.dc ≤ 65535

theorem norm16_normYCC {y cb cr : Nat} (r : SignalRange) (hy : y ≤ 65535) (hcb : cb ≤ 65535) (hcr : cr ≤ 65535) :
    Norm16 (normYCC y cb cr r .d16) := by
  obtain ⟨h1, h2, h3, h4, h5, h6, h7, h8, h9, h10⟩ := normYCC_d16_bounds r hy hcb hcr
  exact ⟨abs_le.mpr ⟨by omega, h1⟩, abs_le.mpr ⟨h3, by omega⟩, abs_le.mpr ⟨h5, by omega⟩, h7, h8, h9, h10⟩

theorem smallKrKb_of_desc {sp : ColorSpace} {e : KrKb} (h : desc cfg sp = .krKb e) : SmallKrKb e := by
  cases sp <;> cases h <;> constructor <;> decide

/-- The numerator of R or B: luma over `K * dc` and one chroma over `2 * (K - a) * dy`. -/
theorem abs_lumaPlusChroma_lt {a k ny nc dy dc : Int} (ha : 0 < a) (hak : a < k) (hk : k ≤ 10000) (hny : |ny| ≤ 65535)
    (hnc : |nc| ≤ 32768) (hdy0 : 0 < dy) (hdy : dy ≤ 65535) (hdc0 : 0 < dc) (hdc : dc ≤ 65535) :
    |ny * k * dc + 2 * (k - a) * nc * dy| < 2 ^ 47 :=
  calc |ny * k * dc + 2 * (k - a) * nc * dy| ≤ |ny * k * dc| + |2 * (k - a) * nc * dy| := abs_add_le _ _
    _ = |ny| * k * dc + 2 * (k - a) * |nc| * dy := by
        rw [abs_mul, abs_mul, abs_mul, abs_mul, abs_of_pos (by omega : 0 < k), abs_of_pos hdc0, abs_of_pos hdy0,
          abs_of_pos (by omega : 0 < 2 * (k - a))]
    _ ≤ 65535 * 10000 * 65535 + 2 * 10000 * 32768 * 65535 := by gcongr <;> omega
    _ < 2 ^ 47 := by norm_num

/-- The chroma weights of G together are at most `2 * K * (a + b)`. -/
theorem chromaWeights_le {a b k : Int} (ha : 0 < a) (hb : 0 < b) (hab : a + b < k) (hk : k ≤ 10000) :
    2 * a * (k - a) + 2 * b * (k - b) ≤ 200000000 :=
  calc 2 * a * (k - a) + 2 * b * (k - b) ≤ 2 * a * k + 2 * b * k := by gcongr <;> omega
    _ = 2 * (a + b) * k := by ring
    _ ≤ 2 * 10000 * 10000 := by gcongr <;> omega
    _ = 200000000 := by norm_num

/-- The numerator of G: luma over `K * g * dc`, and both chromas. -/
theorem abs_lumaMinusChromas_lt {a b k g ny ncb ncr dy dc : Int} (ha : 0 < a) (hb : 0 < b) (hab : a + b < k) (hk : k ≤ 10000)
    (hg0 : 0 < g) (hg : g ≤ 10000) (hny : |ny| ≤ 65535) (hncb : |ncb| ≤ 32768) (hncr : |ncr| ≤ 32768) (hdy0 : 0 < dy)
    (hdy : dy ≤ 65535) (hdc0 : 0 < dc) (hdc : dc ≤ 65535) :
    |ny * k * g * dc - (2 * a * (k - a) * ncr + 2 * b * (k - b) * ncb) * dy| < 2 ^ 60 := by
  have hA : 0 < 2 * a * (k - a) := mul_pos (by omega) (by omega)
  have hB : 0 < 2 * b * (k - b) := mul_pos (by omega) (by omega)
  have hluma : |ny * k * g * dc| ≤ 65535 * 10000 * 10000 * 65535 := by
    rw [abs_mul, abs_mul, abs_mul, abs_of_pos (by omega : 0 < k), abs_of_pos hg0, abs_of_pos hdc0]
    gcongr
    omega
  have hchroma : |2 * a * (k - a) * ncr + 2 * b * (k - b) * ncb| ≤ 200000000 * 32768 :=
    calc |2 * a * (k - a) * ncr + 2 * b * (k - b) * ncb|
        ≤ |2 * a * (k - a) * ncr| + |2 * b * (k - b) * ncb| := abs_add_le _ _
      _ = 2 * a * (k - a) * |ncr| + 2 * b * (k - b) * |ncb| := by
          rw [abs_mul, abs_mul (2 * b * (k - b)), abs_of_pos hA, abs_of_pos hB]
      _ ≤ 2 * a * (k - a) * 32768 + 2 * b * (k - b) * 32768 := by gcongr
      _ = (2 * a * (k - a) + 2 * b * (k - b)) * 32768 := by ring
      _ ≤ 200000000 * 32768 := by gcongr; exact chromaWeights_le ha hb hab hk
  calc |ny * k * g * dc - (2 * a * (k - a) * ncr + 2 * b * (k - b) * ncb) * dy|
      ≤ |ny * k * g * dc| + |(2 * a * (k - a) * ncr + 2 * b * (k - b) * ncb) * dy| := abs_sub _ _
    _ ≤ 65535 * 10000 * 10000 * 65535 + 200000000 * 32768 * 65535 := by
        rw [abs_mul (_ + _), abs_of_pos hdy0]
        gcongr
    _ < 2 ^ 60 := by norm_num

/-- Settles O39: the families' coefficients are small, and depth 16 bounds the normalized samples. -/
theorem matrixIntermediateBounds : Obligations.MatrixIntermediateBounds := by
  intro sp e r y cb cr hdesc hy hcb hcr
  obtain ⟨ha, hb, hab, hk⟩ := smallKrKb_of_desc hdesc
  have hn := norm16_normYCC r hy hcb hcr
  generalize normYCC y cb cr r .d16 = n at hn
  obtain ⟨hny, hncb, hncr, hdy0, hdy, hdc0, hdc⟩ := hn
  have hk0 : 0 < e.k := by omega
  have hg0 : 0 < kgNum e := by unfold kgNum; omega
  have hg : kgNum e ≤ 10000 := by unfold kgNum; omega
  have hden : e.k * n.dy * n.dc < 2 ^ 46 :=
    calc e.k * n.dy * n.dc ≤ 10000 * 65535 * 65535 := by gcongr
      _ < 2 ^ 46 := by norm_num
  refine ⟨abs_lumaPlusChroma_lt ha (by omega) hk hny hncr hdy0 hdy hdc0 hdc,
    abs_lumaPlusChroma_lt hb (by omega) hk hny hncb hdy0 hdy hdc0 hdc, hden, hden,
    abs_lumaMinusChromas_lt ha hb hab hk hg0 hg hny hncb hncr hdy0 hdy hdc0 hdc, ?_⟩
  calc e.k * kgNum e * n.dy * n.dc ≤ 10000 * 10000 * 65535 * 65535 := by gcongr
    _ < 2 ^ 59 := by norm_num

end Sys2Proof.Machine
end

section
/-! SUPPORT. The scaler by the exact value of its ratio: the same value gives the same sample, a greater one no smaller sample, and
the sample is within one half of the clamped value (43_bitdepth_scaler.md R111 to R117). -/

namespace Sys2Proof.Machine

/-- The exact rational a ratio stands for (00_scope.md R6). -/
def Ratio.value (q : Ratio) : ℚ := (q.num : ℚ) / q.den

theorem scale_mono {q q' : Ratio} (d : BitDepth) (hq : 0 < q.den) (hq' : 0 < q'.den) (h : q.value ≤ q'.value) :
    scale q d ≤ scale q' d := by
  rw [scale_eq_max_min, scale_eq_max_min]
  gcongr
  exact scalePre_mono d hq hq' h

theorem scale_congr {q q' : Ratio} (d : BitDepth) (hq : 0 < q.den) (hq' : 0 < q'.den) (h : q.value = q'.value) :
    scale q d = scale q' d :=
  le_antisymm (scale_mono d hq hq' h.le) (scale_mono d hq' hq h.ge)

theorem scale_zero {den : Int} (d : BitDepth) (h : 0 < den) : scale ⟨0, den⟩ d = 0 :=
  (scale_eq_scalePre d h le_rfl h.le).trans (scalePre_zero d h)

theorem scale_self {den : Int} (d : BitDepth) (h : 0 < den) : scale ⟨den, den⟩ d = fullScale d :=
  (scale_eq_scalePre d h h.le le_rfl).trans (scalePre_self d h)

theorem scale_of_num_nonpos {q : Ratio} (d : BitDepth) (hq : 0 < q.den) (h : q.num ≤ 0) : scale q d = 0 := by
  have hden : (0 : ℚ) < q.den := by exact_mod_cast hq
  refine le_antisymm ?_ (scale_nonneg q d)
  calc scale q d ≤ scale ⟨0, q.den⟩ d := scale_mono d hq hq (by simp only [Ratio.value]; gcongr)
    _ = 0 := scale_zero d hq

theorem scale_of_den_le_num {q : Ratio} (d : BitDepth) (hq : 0 < q.den) (h : q.den ≤ q.num) : scale q d = fullScale d := by
  have hden : (0 : ℚ) < q.den := by exact_mod_cast hq
  refine le_antisymm (scale_le q d) ?_
  calc fullScale d = scale ⟨q.den, q.den⟩ d := (scale_self d hq).symm
    _ ≤ scale q d := scale_mono d hq hq (by simp only [Ratio.value]; gcongr)

/-- A multiple of `1 / Mout` in `[0, 1]` is exact. -/
theorem scale_of_value_eq {q : Ratio} {d : BitDepth} {k : Int} (hq : 0 < q.den) (h0 : 0 ≤ k) (h1 : k ≤ fullScale d)
    (h : q.value = k / fullScale d) : scale q d = k := by
  have hfull := fullScale_pos d
  calc scale q d = scale ⟨k, fullScale d⟩ d := scale_congr d hq hfull h
    _ = scalePre ⟨k, fullScale d⟩ d := scale_eq_scalePre d hfull h0 h1
    _ = k := scalePre_of_mul_eq hfull rfl

/-- The exact value clamped to the unit interval: what the scaler rounds. -/
def Ratio.clampedValue (q : Ratio) : ℚ := max 0 (min 1 q.value)

/-- Clamping before the rounding or after it is the same, and rounding moves a value by at most one half. -/
theorem abs_scale_sub_le {q : Ratio} (d : BitDepth) (hq : 0 < q.den) :
    |(scale q d : ℚ) - q.clampedValue * fullScale d| ≤ 1 / 2 := by
  have hden : (0 : ℚ) < q.den := by exact_mod_cast hq
  obtain hneg | hneg := le_total q.num 0
  · have hvalue : q.value ≤ 0 := div_nonpos_of_nonpos_of_nonneg (by exact_mod_cast hneg) hden.le
    have hclamp : q.clampedValue = 0 := max_eq_left ((min_le_right _ _).trans hvalue)
    simp [scale_of_num_nonpos d hq hneg, hclamp]
  obtain hbig | hbig := le_total q.den q.num
  · have hvalue : 1 ≤ q.value := (one_le_div hden).mpr (by exact_mod_cast hbig)
    have hclamp : q.clampedValue = 1 := by rw [Ratio.clampedValue, min_eq_left hvalue]; norm_num
    simp [scale_of_den_le_num d hq hbig, hclamp]
  · have h0 : 0 ≤ q.value := div_nonneg (by exact_mod_cast hneg) hden.le
    have h1 : q.value ≤ 1 := (div_le_one hden).mpr (by exact_mod_cast hbig)
    have hclamp : q.clampedValue = q.value := by rw [Ratio.clampedValue, min_eq_right h1, max_eq_right h0]
    rw [scale_eq_scalePre d hq hneg hbig, scalePre_eq_floor d hq, hclamp, ← Ratio.value, abs_le]
    have hlo := Int.floor_le (q.value * fullScale d + 1 / 2)
    have hhi := Int.lt_floor_add_one (q.value * fullScale d + 1 / 2)
    constructor <;> linarith

/-- Rounding to 16 bits and then to 8 bits: the first error is at most `255 / 131070`, the two together less than 1. -/
theorem rescaled_sub_le {q : Ratio} (hq : 0 < q.den) :
    |⌊((scale q .d16 : ℚ)) * 255 / 65535 + 1 / 2⌋ - scale q .d8| ≤ 1 := by
  have hfull16 : (fullScale .d16 : ℚ) = 65535 := by norm_num [fullScale, depthBits]
  have hfull8 : (fullScale .d8 : ℚ) = 255 := by norm_num [fullScale, depthBits]
  obtain ⟨hlo16, hhi16⟩ := abs_le.mp (abs_scale_sub_le .d16 hq)
  obtain ⟨hlo8, hhi8⟩ := abs_le.mp (abs_scale_sub_le .d8 hq)
  rw [hfull16] at hlo16 hhi16
  rw [hfull8] at hlo8 hhi8
  have hlo : scale q .d8 - 1 ≤ ⌊((scale q .d16 : ℚ)) * 255 / 65535 + 1 / 2⌋ := by
    rw [Int.le_floor]
    push_cast
    linarith only [hlo16, hhi8]
  have hhi : ⌊((scale q .d16 : ℚ)) * 255 / 65535 + 1 / 2⌋ < scale q .d8 + 2 := by
    rw [Int.floor_lt]
    push_cast
    linarith only [hhi16, hlo8]
  rw [abs_le]
  omega

/-- A negative value gives 0 whichever way its ties are broken: rounding up stays at or below 0 too. -/
theorem max_min_ceil_of_neg {u m : ℚ} (k : Int) (hu : u < 0) (hm : 0 ≤ m) : max 0 (min k ⌈u * m - 1 / 2⌉) = 0 := by
  have hprod : u * m ≤ 0 := mul_nonpos_of_nonpos_of_nonneg hu.le hm
  have hceil : ⌈u * m - 1 / 2⌉ ≤ 0 := by
    rw [Int.ceil_le]
    push_cast
    linarith
  exact max_eq_left ((min_le_right _ _).trans hceil)

end Sys2Proof.Machine
end

section
/-! SUPPORT. The conversion pipeline by exact unit values: the three descriptors as rationals, gray, monotony in luma, the range of
the output, and the pixel of the spec's rational formulas (44_converter_commands.md R120, R127). -/

namespace Sys2Proof.Machine

/-- The exact unit values of the three channels. -/
def UnitRgb.values (u : UnitRgb) : ℚ × ℚ × ℚ := (u.r.value, u.g.value, u.b.value)

/-- R103: the three denominators are positive. -/
structure UnitRgb.DenPos (u : UnitRgb) : Prop where
  r : 0 < u.r.den
  g : 0 < u.g.den
  b : 0 < u.b.den

theorem matrixKrKb_denPos {e : KrKb} {n : UnitYCC} (he : e.valid = true) (hy : 0 < n.dy) (hc : 0 < n.dc) :
    (matrixKrKb e n).DenPos := by
  obtain ⟨hr, hg, hb⟩ := matrixKrKb_den_pos he hy hc
  exact ⟨hr, hg, hb⟩

theorem matrixYCgCo_denPos (m : YCgCo) {n : UnitYCC} (hy : 0 < n.dy) (hc : 0 < n.dc) : (matrixYCgCo m n).DenPos :=
  ⟨mul_pos hy hc, mul_pos hy hc, mul_pos hy hc⟩

theorem identityUnit_denPos (y cb cr : Int) (d : BitDepth) : (identityUnit y cb cr d).DenPos :=
  ⟨fullScale_pos d, fullScale_pos d, fullScale_pos d⟩

/-- R99 on exact values: the matrix of R77. -/
theorem matrixYCgCo_values {n : UnitYCC} (hy : 0 < n.dy) (hc : 0 < n.dc) :
    (matrixYCgCo ycgcoDefault n).values =
      let yn : ℚ := (n.ny : ℚ) / n.dy
      let cbn : ℚ := (n.ncb : ℚ) / n.dc
      let crn : ℚ := (n.ncr : ℚ) / n.dc
      (yn - cbn + crn, yn + cbn, yn - cbn - crn) := by
  have hy' : (n.dy : ℚ) ≠ 0 := by exact_mod_cast hy.ne'
  have hc' : (n.dc : ℚ) ≠ 0 := by exact_mod_cast hc.ne'
  simp only [matrixYCgCo_default, UnitRgb.values, Ratio.value, Prod.mk.injEq]
  push_cast
  refine ⟨?_, ?_, ?_⟩ <;> field_simp <;> ring

theorem matrixKrKb_values {e : KrKb} {n : UnitYCC} (he : e.valid = true) (hy : 0 < n.dy) (hc : 0 < n.dc) :
    (matrixKrKb e n).values =
      krKbQ ((e.a : ℚ) / e.k) ((e.b : ℚ) / e.k) ((n.ny : ℚ) / n.dy) ((n.ncb : ℚ) / n.dc) ((n.ncr : ℚ) / n.dc) :=
  matrixKrKb_eq_krKbQ he hy hc

/-- What `conv` does with samples in range, and that it gives no pixel for others. -/
theorem conv_eq_rgb_iff {c : Config} {q : Params} {y cb cr : Nat} {t : Rgb} :
    conv c q y cb cr = .rgb t ↔
      max3 y cb cr ≤ 2 ^ depthBits q.din - 1 ∧ t = scaleRgb (unitRgb c q.space q.range q.din y cb cr) q.dout := by
  unfold conv
  split
  case isTrue h => simp [Nat.not_le.mpr h]
  case isFalse h => simp [Nat.not_lt.mp h, eq_comm]

/-- The two kinds of space that are not Identity: a valid Kr/Kb family, or YCgCo with the matrix of R77. -/
theorem unitRgb_cases {k : Ktab} (hk : k.valid = true) {sp : ColorSpace} (hsp : sp ≠ .identity) :
    (∃ e : KrKb, e.valid = true ∧ ∀ r d y cb cr,
        unitRgb { cfg with ktab := k } sp r d y cb cr = matrixKrKb e (normYCC y cb cr r d)) ∨
      ∀ r d y cb cr, unitRgb { cfg with ktab := k } sp r d y cb cr = matrixYCgCo ycgcoDefault (normYCC y cb cr r d) := by
  simp only [Ktab.valid, Bool.and_eq_true] at hk
  obtain ⟨⟨⟨⟨h601, h709⟩, hfcc⟩, h470⟩, h240⟩ := hk
  cases sp with
  | bt601 => exact .inl ⟨_, h601, fun _ _ _ _ _ => rfl⟩
  | bt709 => exact .inl ⟨_, h709, fun _ _ _ _ _ => rfl⟩
  | fcc => exact .inl ⟨_, hfcc, fun _ _ _ _ _ => rfl⟩
  | bt470bg => exact .inl ⟨_, h470, fun _ _ _ _ _ => rfl⟩
  | smpte240 => exact .inl ⟨_, h240, fun _ _ _ _ _ => rfl⟩
  | ycgco => exact .inr fun _ _ _ _ _ => rfl
  | identity => exact absurd rfl hsp

theorem unitRgb_denPos {k : Ktab} (hk : k.valid = true) {sp : ColorSpace} (hsp : sp ≠ .identity) (r : SignalRange)
    (d : BitDepth) (y cb cr : Int) : (unitRgb { cfg with ktab := k } sp r d y cb cr).DenPos := by
  have hdy := normYCC_dy_pos y cb cr r d
  have hdc := normYCC_dc_pos y cb cr r d
  obtain ⟨e, he, hunit⟩ | hunit := unitRgb_cases hk hsp
  · rw [hunit]
    exact matrixKrKb_denPos he hdy hdc
  · rw [hunit]
    exact matrixYCgCo_denPos _ hdy hdc

/-! ### Gray and luma -/

/-- R101 for the Kr/Kb matrix: without chroma the three channels are the luma. -/
theorem matrixKrKb_gray {e : KrKb} {n : UnitYCC} (he : e.valid = true) (hy : 0 < n.dy) (hc : 0 < n.dc) (hncb : n.ncb = 0)
    (hncr : n.ncr = 0) :
    (matrixKrKb e n).values = ((n.ny : ℚ) / n.dy, (n.ny : ℚ) / n.dy, (n.ny : ℚ) / n.dy) := by
  simp [matrixKrKb_values he hy hc, krKbQ, hncb, hncr]

/-- R101 for the YCgCo matrix. -/
theorem matrixYCgCo_gray {n : UnitYCC} (hy : 0 < n.dy) (hc : 0 < n.dc) (hncb : n.ncb = 0) (hncr : n.ncr = 0) :
    (matrixYCgCo ycgcoDefault n).values = ((n.ny : ℚ) / n.dy, (n.ny : ℚ) / n.dy, (n.ny : ℚ) / n.dy) := by
  simp [matrixYCgCo_values hy hc, hncb, hncr]

/-- Settles O44: the three values of each matrix are the luma; Identity's example by evaluation. -/
theorem grayIsAchromatic : Obligations.GrayIsAchromatic := by
  refine ⟨fun e n he hy hc hncb hncr => ?_, by decide⟩
  obtain ⟨hr, hgb⟩ := Prod.ext_iff.mp (matrixKrKb_gray he hy hc hncb hncr)
  obtain ⟨hg, hb⟩ := Prod.ext_iff.mp hgb
  obtain ⟨hr', hgb'⟩ := Prod.ext_iff.mp (matrixYCgCo_gray hy hc hncb hncr)
  obtain ⟨hg', hb'⟩ := Prod.ext_iff.mp hgb'
  simp only [List.forall_mem_cons, List.not_mem_nil, false_implies, implies_true, and_true]
  exact ⟨hr, hg, hb, hr', hg', hb'⟩

theorem unitRgb_gray {k : Ktab} (hk : k.valid = true) {sp : ColorSpace} (hsp : sp ≠ .identity) (r : SignalRange) (d : BitDepth)
    (y : Int) :
    let n := normYCC y (2 ^ (depthBits d - 1)) (2 ^ (depthBits d - 1)) r d
    (unitRgb { cfg with ktab := k } sp r d y (2 ^ (depthBits d - 1)) (2 ^ (depthBits d - 1))).values =
      ((n.ny : ℚ) / n.dy, (n.ny : ℚ) / n.dy, (n.ny : ℚ) / n.dy) := by
  intro n
  obtain ⟨hncb, hncr⟩ := normYCC_center y r d
  have hdy : 0 < n.dy := normYCC_dy_pos ..
  have hdc : 0 < n.dc := normYCC_dc_pos ..
  obtain ⟨e, he, hunit⟩ | hunit := unitRgb_cases hk hsp
  · rw [hunit]
    exact matrixKrKb_gray he hdy hdc hncb hncr
  · rw [hunit]
    exact matrixYCgCo_gray hdy hdc hncb hncr

/-- Equal unit values scale to equal samples. -/
theorem scaleRgb_of_values_eq {u : UnitRgb} {q : Ratio} (d : BitDepth) (hu : u.DenPos) (hq : 0 < q.den)
    (h : u.values = (q.value, q.value, q.value)) :
    scaleRgb u d = ⟨(scale q d).toNat, (scale q d).toNat, (scale q d).toNat⟩ := by
  obtain ⟨hr, hgb⟩ := Prod.ext_iff.mp h
  obtain ⟨hg, hb⟩ := Prod.ext_iff.mp hgb
  rw [scaleRgb, scale_congr d hu.r hq hr, scale_congr d hu.g hq hg, scale_congr d hu.b hq hb]

/-- The chroma centre is a sample in range at every depth. -/
theorem mid_le_fullScale (d : BitDepth) : 2 ^ (depthBits d - 1) ≤ 2 ^ depthBits d - 1 := by cases d <;> decide

/-- Settles O45: neutral chroma normalizes to 0, so every channel scales the luma's unit value. -/
theorem grayPixels : Obligations.GrayPixels := by
  intro k q y hk hsp hy mid n v
  have hmid := mid_le_fullScale q.din
  refine conv_eq_rgb_iff.mpr ⟨max_le hy (max_le hmid hmid), ?_⟩
  have hcast : (mid : Int) = 2 ^ (depthBits q.din - 1) := by simp [mid]
  have hgray := unitRgb_gray hk hsp q.range q.din y
  have hpos := unitRgb_denPos hk hsp q.range q.din y mid mid
  rw [← hcast] at hgray
  exact (scaleRgb_of_values_eq (q := ⟨n.ny, n.dy⟩) q.dout hpos (normYCC_dy_pos ..) hgray).symm

/-- Gray under the default configuration, with the luma's ratio given. -/
theorem conv_gray {sp : ColorSpace} (hsp : sp ≠ .identity) (r : SignalRange) (di dd : BitDepth) {y v : Nat}
    (hy : y ≤ 2 ^ depthBits di - 1)
    (hv : (scale ⟨(normYCC y ((2 ^ (depthBits di - 1) : Nat) : Int) ((2 ^ (depthBits di - 1) : Nat) : Int) r di).ny,
      (normYCC y ((2 ^ (depthBits di - 1) : Nat) : Int) ((2 ^ (depthBits di - 1) : Nat) : Int) r di).dy⟩ dd) = v) :
    conv cfg ⟨sp, r, di, dd⟩ y (2 ^ (depthBits di - 1)) (2 ^ (depthBits di - 1)) = .rgb ⟨v, v, v⟩ := by
  have h := grayPixels ktabDefault ⟨sp, r, di, dd⟩ y ktabDefault_valid hsp hy
  simp only [hv, Int.toNat_natCast] at h
  exact h

/-- Settles O47: nominal black has luma numerator 0, nominal white has the denominator. -/
theorem boundaryPixels : Obligations.BoundaryPixels := by
  intro sp di dd hsp s mid top
  have hs : (s : Int) = scaleOf di := by simp [s, scaleOf]
  have htop : (top : Int) = fullScale dd := by simp [top, fullScale, Nat.one_le_two_pow]
  have hwhite : ((2 ^ depthBits di - 1 : Nat) : Int) = fullScale di := by simp [fullScale, Nat.one_le_two_pow]
  have hsTop : 235 * s ≤ 2 ^ depthBits di - 1 := by cases di <;> decide
  have hscale := scaleOf_pos di
  refine ⟨conv_gray hsp .studio di dd (by omega) ?_, conv_gray hsp .studio di dd hsTop ?_,
    conv_gray hsp .full di dd (Nat.zero_le _) ?_, conv_gray hsp .full di dd le_rfl ?_⟩
  · simp only [normYCC, Nat.cast_mul, Nat.cast_ofNat, hs, sub_self]
    exact scale_zero dd (by omega)
  · simp only [normYCC, Nat.cast_mul, Nat.cast_ofNat, hs, htop]
    exact scale_of_den_le_num dd (by dsimp only; omega) (by dsimp only; omega)
  · exact scale_zero dd (fullScale_pos di)
  · simp only [normYCC, hwhite, htop]
    exact scale_self dd (fullScale_pos di)

/-- Settles O41: each clause is a lemma on the scaler; the tie 1/6 is the luma 210 of a gray pixel. -/
theorem scaleProperties : Obligations.ScaleProperties := by
  refine ⟨fun q q' d hq hq' h => scale_mono d hq hq' h, fun q d k hq h0 h1 h => ?exact,
    fun sp hsp => conv_gray hsp .studio .d10 .d8 (by decide) (by decide), fun q hq => rescaled_sub_le hq,
    fun q d hq hneg => ?negative⟩
  case exact => exact scale_of_value_eq hq h0 h1 (by rw [cast_fullScale]; exact h)
  case negative =>
    have hden : (0 : ℚ) < q.den := by exact_mod_cast hq
    have hvalue : (q.num : ℚ) / q.den < 0 := div_neg_of_neg_of_pos (by exact_mod_cast hneg) hden
    have hfull : (0 : ℚ) ≤ 2 ^ depthBits d - 1 := by rw [← cast_fullScale]; exact_mod_cast (fullScale_pos d).le
    rw [scale_of_num_nonpos d hq hneg.le]
    exact (max_min_ceil_of_neg (2 ^ depthBits d - 1) hvalue hfull).symm

/-- Settles O48: the clamp of each channel. -/
theorem pixelsAreInRange : Obligations.PixelsAreInRange := by
  intro c q y cb cr t h
  obtain ⟨-, rfl⟩ := conv_eq_rgb_iff.mp h
  have hfull : ((2 ^ depthBits q.dout - 1 : Nat) : Int) = fullScale q.dout := by simp [fullScale, Nat.one_le_two_pow]
  have hle (x : Ratio) : (scale x q.dout).toNat ≤ 2 ^ depthBits q.dout - 1 :=
    Int.toNat_le.mpr (hfull ▸ scale_le x q.dout)
  exact ⟨hle _, hle _, hle _⟩

/-- Each channel of each matrix rises with the luma. -/
theorem unitRgb_mono {k : Ktab} (hk : k.valid = true) {sp : ColorSpace} (hsp : sp ≠ .identity) (r : SignalRange) (d : BitDepth)
    {y y' : Int} (cb cr : Int) (hy : y ≤ y') :
    (unitRgb { cfg with ktab := k } sp r d y cb cr).values ≤ (unitRgb { cfg with ktab := k } sp r d y' cb cr).values := by
  obtain ⟨hdy, hdc⟩ := normYCC_den_eq y y' cb cb cr cr r d
  obtain ⟨hny, hncb, hncr⟩ := normYCC_num_sub y y' cb cb cr cr r d
  have hdy0 := normYCC_dy_pos y cb cr r d
  have hdc0 := normYCC_dc_pos y cb cr r d
  have hluma := unit_le_of_num_le hdy0 hdy (by omega : (normYCC y cb cr r d).ny ≤ (normYCC y' cb cr r d).ny)
  have hcb : (normYCC y' cb cr r d).ncb = (normYCC y cb cr r d).ncb := by omega
  have hcr : (normYCC y' cb cr r d).ncr = (normYCC y cb cr r d).ncr := by omega
  obtain ⟨e, he, hunit⟩ | hunit := unitRgb_cases hk hsp
  · rw [hunit, hunit, matrixKrKb_values he hdy0 hdc0, matrixKrKb_values he (hdy ▸ hdy0) (hdc ▸ hdc0), hcb, hcr, ← hdc]
    simp only [krKbQ, Prod.mk_le_mk]
    exact ⟨by gcongr, by gcongr, by gcongr⟩
  · rw [hunit, hunit, matrixYCgCo_values hdy0 hdc0, matrixYCgCo_values (hdy ▸ hdy0) (hdc ▸ hdc0), hcb, hcr, ← hdc]
    simp only [Prod.mk_le_mk]
    exact ⟨by gcongr, by gcongr, by gcongr⟩

/-- Settles O46: every unit value rises with the luma, and the scaler keeps the order. -/
theorem pixelsAreMonotoneInLuma : Obligations.PixelsAreMonotoneInLuma := by
  intro k q y y' cb cr t t' hk hsp hy h h'
  obtain ⟨-, rfl⟩ := conv_eq_rgb_iff.mp h
  obtain ⟨-, rfl⟩ := conv_eq_rgb_iff.mp h'
  have hpos := unitRgb_denPos hk hsp q.range q.din y cb cr
  have hpos' := unitRgb_denPos hk hsp q.range q.din y' cb cr
  obtain ⟨hr, hg, hb⟩ := unitRgb_mono hk hsp q.range q.din cb cr (Int.ofNat_le.mpr hy)
  exact ⟨Int.toNat_le_toNat (scale_mono _ hpos.r hpos'.r hr), Int.toNat_le_toNat (scale_mono _ hpos.g hpos'.g hg),
    Int.toNat_le_toNat (scale_mono _ hpos.b hpos'.b hb)⟩

/-! ### Identity and the exact pixel -/

/-- Settles O43: each channel passes through the scaler unchanged (`identityThroughTheScaler`). -/
theorem identityInvariant : Obligations.IdentityInvariant := by
  intro r d y cb cr hy hcb hcr
  have hpass := identityThroughTheScaler.2.1
  refine conv_eq_rgb_iff.mpr ⟨max_le hy (max_le hcb hcr), ?_⟩
  have hunit : unitRgb cfg .identity r d y cb cr = identityUnit y cb cr d := rfl
  simp only [hunit, identityUnit, scaleRgb, hpass y d hy, hpass cb d hcb, hpass cr d hcr, Int.toNat_natCast]

/-- The normalizer's ratios are the unit values of 41_range_normalizer.md R86 to R89. -/
theorem normYCC_eq_lumaQ_chromaQ (y cb cr : Int) (r : SignalRange) (d : BitDepth) :
    ((normYCC y cb cr r d).ny : ℚ) / (normYCC y cb cr r d).dy = lumaQ r d y ∧
      ((normYCC y cb cr r d).ncb : ℚ) / (normYCC y cb cr r d).dc = chromaQ r d cb ∧
      ((normYCC y cb cr r d).ncr : ℚ) / (normYCC y cb cr r d).dc = chromaQ r d cr := by
  cases r with
  | studio => simp [normYCC, lumaQ, chromaQ, midOf_eq, scaleOf]
  | full => simp [normYCC, lumaQ, chromaQ, midOf, cast_fullScale]

/-- A family of the default table, with its coefficients as decimal fractions. -/
theorem krKb_values_of_normYCC {e : KrKb} (he : e.valid = true) {kr kb : ℚ}
    (h : (e.a : ℚ) / e.k = kr ∧ (e.b : ℚ) / e.k = kb) (r : SignalRange) (d : BitDepth) (y cb cr : Int) :
    (matrixKrKb e (normYCC y cb cr r d)).values = krKbQ kr kb (lumaQ r d y) (chromaQ r d cb) (chromaQ r d cr) := by
  obtain ⟨hkr, hkb⟩ := h
  obtain ⟨hy, hcb, hcr⟩ := normYCC_eq_lumaQ_chromaQ y cb cr r d
  rw [matrixKrKb_values he (normYCC_dy_pos ..) (normYCC_dc_pos ..), hkr, hkb, hy, hcb, hcr]

/-- The integers of the pipeline stand for the spec's rational unit values, space by space. -/
theorem unitRgb_values (sp : ColorSpace) (r : SignalRange) (d : BitDepth) (y cb cr : Int) :
    (unitRgb cfg sp r d y cb cr).values = unitQ sp r d y cb cr := by
  cases sp with
  | bt601 => exact krKb_values_of_normYCC (by decide) (by norm_num [cfg, ktabDefault]) r d y cb cr
  | bt709 => exact krKb_values_of_normYCC (by decide) (by norm_num [cfg, ktabDefault]) r d y cb cr
  | fcc => exact krKb_values_of_normYCC (by decide) (by norm_num [cfg, ktabDefault]) r d y cb cr
  | bt470bg => exact krKb_values_of_normYCC (by decide) (by norm_num [cfg, ktabDefault]) r d y cb cr
  | smpte240 => exact krKb_values_of_normYCC (by decide) (by norm_num [cfg, ktabDefault]) r d y cb cr
  | ycgco =>
    obtain ⟨hy, hcb, hcr⟩ := normYCC_eq_lumaQ_chromaQ y cb cr r d
    refine (matrixYCgCo_values (normYCC_dy_pos ..) (normYCC_dc_pos ..)).trans ?_
    simp only [hy, hcb, hcr, unitQ]
  | identity =>
    simp only [unitRgb, desc, identityUnit, UnitRgb.values, Ratio.value, cast_fullScale, unitQ]

theorem unitRgb_cfg_denPos (sp : ColorSpace) (r : SignalRange) (d : BitDepth) (y cb cr : Int) :
    (unitRgb cfg sp r d y cb cr).DenPos := by
  by_cases hsp : sp = .identity
  · rw [hsp]
    exact identityUnit_denPos y cb cr d
  · exact unitRgb_denPos ktabDefault_valid hsp r d y cb cr

/-- The scaler's integers are the spec's rational rounding and clamp. -/
theorem scale_eq_sampleQ {x : Ratio} (d : BitDepth) (hx : 0 < x.den) : scale x d = sampleQ d x.value :=
  scaleRoundsHalfUpAndClamps.1 x d hx

/-- In-range samples convert to the pixel of the rational formulas (44_converter_commands.md R120). -/
theorem conv_eq_pixelQ {q : Params} {y cb cr : Nat} (h : max y (max cb cr) ≤ 2 ^ depthBits q.din - 1) :
    conv cfg q y cb cr = .rgb (pixelQ q y cb cr) := by
  refine conv_eq_rgb_iff.mpr ⟨h, ?_⟩
  obtain ⟨hr, hg, hb⟩ := unitRgb_cfg_denPos q.space q.range q.din y cb cr
  have hvalues := unitRgb_values q.space q.range q.din y cb cr
  simp only [Int.cast_natCast] at hvalues
  simp only [pixelQ, ← hvalues, UnitRgb.values, ← scale_eq_sampleQ q.dout hr, ← scale_eq_sampleQ q.dout hg,
    ← scale_eq_sampleQ q.dout hb, scaleRgb]

theorem convStatus_eq_pixelQ {q : Params} {y cb cr : Nat} (h : max y (max cb cr) ≤ 2 ^ depthBits q.din - 1) :
    convStatus cfg q y cb cr = .ok (.ok, pixelQ q y cb cr) := by
  rw [convStatus, conv_eq_pixelQ h]

theorem fitsResponse_pixelQ {q : Params} {y cb cr : Nat} (h : max y (max cb cr) ≤ 2 ^ depthBits q.din - 1) :
    FitsResponse (pixelQ q y cb cr) := by
  obtain ⟨-, hpixel⟩ := conv_eq_rgb_iff.mp (conv_eq_pixelQ h)
  rw [hpixel]
  exact fitsResponse_scaleRgb _ _

/-- Settles O20: CVT's response is the conversion's pixel, which is exact. -/
theorem cvtAnswersTheExactPixel : Obligations.CvtAnswersTheExactPixel := by
  intro s q y cb cr hidle hy hcb hcr
  have hrange := max_le hy (max_le hcb hcr)
  rw [exec, execCvt_of_ok hidle (checkParams_codes q) (convStatus_eq_pixelQ hrange),
    respond_eq_rsp64 _ _ _ _ (fitsResponse_pixelQ hrange)]
  rfl

/-- Settles O21: a beat before the last leaves the batch open and, being good, leaves `BERR`. -/
theorem dataAnswersTheExactPixel : Obligations.DataAnswersTheExactPixel := by
  intro s q y cb cr hbatch hrem hp hy hcb hcr
  have hrange := max_le hy (max_le hcb hcr)
  have hne : s.rem ≠ 0 := by rintro h; simp [h] at hrem
  rw [exec, execData_of_ok hbatch (paramsOfP_codes hp) (convStatus_eq_pixelQ hrange),
    next_countBeat_eq .ok (fitsResponse_pixelQ hrange) hne hbatch, rem_sub_one_eq_ofNat hne]
  simp only [if_neg (by omega : ¬ s.rem.toNat - 1 = 0)]
  rfl

/-- Settles O49: the check of the CVT is the check of the PLANE that left `P`, so both run one conversion. -/
theorem cvtAndDataAgree : Obligations.CvtAndDataAgree := by
  intro s b b' c n y cb cr space range din dout hs hb hplane hopen hc hp
  obtain ⟨hbatch, -⟩ | ⟨-, e, -, hexec⟩ | ⟨-, q, hcheck, hlengths⟩ := execPlane_cases n n n space range din dout b
  · cases hb.symm.trans hbatch
  · cases hexec.symm.trans hplane
    cases hb.symm.trans hopen
  obtain ⟨hne, -⟩ | ⟨-, -, hexec⟩ | ⟨-, -, hexec⟩ := hlengths
  · exact absurd ⟨rfl, rfl⟩ hne
  · cases hexec.symm.trans hplane
    cases hb.symm.trans hopen
  · cases hexec.symm.trans hplane
    have hparams : paramsOfP cfg c.p = .ok q := by rw [hp, openBatch_p, paramsOfP_packParams, hcheck]
    obtain ⟨⟨st, t⟩, hconv⟩ := convStatus_ok q y.toNat cb.toNat cr.toNat
    refine ⟨_, _, _, _, execCvt_of_ok hs hcheck hconv, execData_of_ok hc hparams hconv, rfl, rfl, ?_⟩
    simp

end Sys2Proof.Machine
end

section
/-! SUPPORT. Words executed one after the other, and runs of steps and host actions: a word reads nothing of the two channels, so
only the order of the words matters (20_memory.md R35 to R38; 70_reset_and_hazards.md R173). -/

namespace Sys2Proof.Machine

/-- The state with other words on the two channels and another readiness of the host. -/
def State.withChannels (s : State) (cmd rsp : List Word) (ready : Bool) : State :=
  { s with cmd := cmd, rsp := rsp, rspReady := ready }

/-- An action reads nothing of the channels, and its response goes behind those on RSP. -/
theorem Action.run_withChannels (a : Action) (s : State) (cmd rsp : List Word) (ready : Bool) :
    a.run (s.withChannels cmd rsp ready) =
      (a.run s).withChannels cmd (rsp ++ [responseWord (a.response s)]) ready := by
  cases a <;> rfl

/-- A word does the same whatever the channels hold. -/
theorem Does.withChannels {w : Word} {s : State} {a : Action} (h : Does w s a) (cmd rsp : List Word) (ready : Bool) :
    Does w (s.withChannels cmd rsp ready) a := h

theorem executeAll_cons {w : Word} {ws : List Word} {s : State} {a : Action} (h : Does w s a) :
    executeAll (w :: ws) s = executeAll ws (a.run s) := by
  rw [executeAll, h.execute_eq]

/-- A sequence that completes begins with an action. -/
theorem does_of_executeAll {w : Word} {ws : List Word} {s u : State} (h : executeAll (w :: ws) s = some u) :
    ∃ a, Does w s a ∧ executeAll ws (a.run s) = some u := by
  cases hexec : execute w s with
  | next t =>
    obtain ⟨a, hdoes, rfl⟩ := does_of_execute hexec
    exact ⟨a, hdoes, (executeAll_cons hdoes).symm.trans h⟩
  | fault r => simp [executeAll, hexec] at h
  | refused r => simp [executeAll, hexec] at h

/-- The loop leaves CMD and the readiness alone and adds one response per word to RSP, the same ones whatever the channels hold. -/
theorem executeAll_withChannels {ws : List Word} {s u : State} (h : executeAll ws s = some u) :
    ∃ rs, rs.length = ws.length ∧ u = u.withChannels s.cmd (s.rsp ++ rs) s.rspReady ∧
      ∀ cmd rsp ready, executeAll ws (s.withChannels cmd rsp ready) = some (u.withChannels cmd (rsp ++ rs) ready) := by
  induction ws generalizing s with
  | nil =>
    cases h
    exact ⟨[], rfl, by rw [List.append_nil]; rfl, fun cmd rsp ready => by rw [List.append_nil]; rfl⟩
  | cons w ws ih =>
    obtain ⟨a, hdoes, hrest⟩ := does_of_executeAll h
    obtain ⟨rs, hlen, hu, hall⟩ := ih hrest
    refine ⟨responseWord (a.response s) :: rs, by simp [hlen], ?_, fun cmd rsp ready => ?_⟩
    · rwa [Action.cmd_run, Action.rsp_run, Action.rspReady_run, List.append_assoc] at hu
    · rw [executeAll_cons (hdoes.withChannels cmd rsp ready), Action.run_withChannels, hall, List.append_assoc]
      rfl

theorem executeAll_completes {s : State} (hinv : BatchInv s) (ws : List Word) : ∃ u, executeAll ws s = some u := by
  induction ws generalizing s with
  | nil => exact ⟨s, rfl⟩
  | cons w ws ih =>
    obtain ⟨a, hdoes⟩ := does_of_batchInv hinv w
    rw [executeAll_cons hdoes]
    exact ih (hdoes.allowed.run_batchInv hinv)

/-! ### The parameters in IDLE -/

/-- In IDLE an action overwrites `P`, or ignores it and stays in IDLE. -/
theorem Allowed.run_otherP {w : Word} {a : Action} (h : Allowed w .idle a) (s : State) (p : BitVec 14) :
    a.run { s with p := p } = a.run s ∨ (a.run { s with p := p } = { a.run s with p := p } ∧ (a.run s).mode = s.mode) := by
  cases h with
  | fail => exact .inr ⟨rfl, rfl⟩
  | pixel => exact .inr ⟨rfl, rfl⟩
  | emptyBatch => exact .inr ⟨rfl, rfl⟩
  | opening => exact .inl rfl

/-- Settles O54: by induction over the words, until one overwrites `P`. -/
theorem idleParametersAreUnobservable : Obligations.IdleParametersAreUnobservable := by
  intro s t p ws hidle hrun
  induction ws generalizing s with
  | nil =>
    cases hrun
    exact ⟨_, rfl, rfl, fun hbatch => nomatch hidle.symm.trans hbatch⟩
  | cons w ws ih =>
    obtain ⟨a, hdoes, hrest⟩ := does_of_executeAll hrun
    have hcontext : SameContext s { s with p := p } := ⟨rfl, fun hbatch => by cases hidle.symm.trans hbatch⟩
    have hcons : executeAll (w :: ws) { s with p := p } = executeAll ws (a.run { s with p := p }) := by
      rw [executeAll, hdoes.2 _ hcontext]
    rw [hcons]
    obtain hrun | ⟨hrun, hmode⟩ := (hidle ▸ hdoes.allowed : Allowed w .idle a).run_otherP s p
    · rw [hrun]
      exact ⟨t, hrest, rfl, fun _ => rfl⟩
    · rw [hrun]
      exact ih (a.run s) (hmode.trans hidle) hrest

/-! ### Queued commands -/

theorem core_run_succ {k : Nat} {s t : State} (h : step s = .next t) : core.run (k + 1) s = core.run k t := by
  have hcore : core.step s = .next t := h
  simp only [Host.Core.run, hcore]

/-- Settles O56: each step pops one word and does its action, as the loop does. -/
theorem queuedCommandsAreAnswered : Obligations.QueuedCommandsAreAnswered := by
  intro s hinv hready
  generalize hws : s.cmd = ws
  induction ws generalizing s with
  | nil => exact ⟨s, rfl, hws, rfl, by rw [executeAll, ← hws]⟩
  | cons w ws ih =>
    obtain ⟨a, hdoes⟩ := does_of_batchInv hinv w
    obtain ⟨t, hrun, hcmd, hlen, hall⟩ := ih { a.run s with cmd := ws } (hdoes.allowed.run_batchInv hinv)
      ((a.rspReady_run s).trans hready) rfl
    refine ⟨t, (core_run_succ (step_of_does hready hws hdoes)).trans hrun, hcmd, ?_, ?_⟩
    · simp only [hlen, a.rsp_run, List.length_append, List.length_cons, List.length_nil]
      omega
    · rw [executeAll_cons (s := { s with cmd := [] }) hdoes, a.run_popped]
      exact hall

/-! ### Interleavings -/

/-- One induction for all statements on runs: what holds of the empty run and is carried back over a step and over a host action
holds of every run. -/
theorem runEvents_rule {R : State → Exchange → State → Prop} (allowed : Event → Prop) (hnil : ∀ s, R s ⟨[], []⟩ s)
    (hblock : ∀ s s' x t, step s = .next s' → R s' x t → R s x t)
    (hhost : ∀ a s x t, allowed (.host a) → R (hostAct a s) x t →
      R s ⟨(movedBy a s).accepted ++ x.accepted, (movedBy a s).taken ++ x.taken⟩ t)
    {es : List Event} {s t : State} {x : Exchange} (hes : ∀ e ∈ es, allowed e) (h : runEvents es s = some (x, t)) :
    R s x t := by
  induction es generalizing s x with
  | nil =>
    cases h
    exact hnil _
  | cons e es ih =>
    have hes' : ∀ e ∈ es, allowed e := fun e' h' => hes e' (List.mem_cons_of_mem e h')
    cases e with
    | block =>
      cases hstep : step s with
      | next s' =>
        rw [runEvents, hstep] at h
        exact hblock s s' x t hstep (ih hes' h)
      | fault r => simp [runEvents, hstep] at h
      | refused r => simp [runEvents, hstep] at h
    | host a =>
      cases hrest : runEvents es (hostAct a s) with
      | none => simp [runEvents, hrest] at h
      | some y =>
        rw [runEvents, hrest] at h
        cases h
        exact hhost a s y.1 _ (hes _ List.mem_cons_self) (ih hes' hrest)

/-- What a host action other than a reset does: accepted words go to the tail of CMD, taken ones come from the head of RSP, and the
block's own state stays. -/
theorem hostAct_channels {a : HostAct} (ha : a ≠ .reset) (s : State) :
    ∃ rsp ready, hostAct a s = s.withChannels (s.cmd ++ (movedBy a s).accepted) rsp ready ∧
      s.rsp = (movedBy a s).taken ++ rsp := by
  cases a with
  | push w => exact ⟨s.rsp, s.rspReady, hostAct_push_eq w s, rfl⟩
  | take =>
    refine ⟨s.rsp.tail, s.rspReady, ?_, ?_⟩
    · rw [movedBy, List.append_nil]
      rfl
    · rw [movedBy]
      cases s.rsp <;> rfl
  | setReady ready =>
    refine ⟨s.rsp, ready, ?_, rfl⟩
    rw [movedBy, List.append_nil]
    rfl
  | reset => exact absurd rfl ha

/-- The responses of a run, in the order taken, waiting, and still to come, are those of the sequential loop to all accepted words,
and the loop's final state is the run's. -/
def AgreesWithLoop (s : State) (x : Exchange) (t : State) : Prop :=
  ∃ u v, executeAll (s.cmd ++ x.accepted) s = some u ∧ executeAll t.cmd t = some v ∧ u.rsp = x.taken ++ v.rsp ∧
    u.mode = v.mode ∧ u.p = v.p ∧ u.rem = v.rem ∧ u.berr = v.berr

/-- A step does what the loop does next. -/
theorem AgreesWithLoop.of_step {s s' t : State} {x : Exchange} (hstep : step s = .next s') (h : AgreesWithLoop s' x t) :
    AgreesWithLoop s x t := by
  obtain rfl | ⟨w, ws, a, hcmd, hdoes, rfl⟩ := step_next_cases hstep
  · exact h
  obtain ⟨u, v, hu, hv, hrsp, hblock⟩ := h
  obtain ⟨rs, -, hu', hall⟩ := executeAll_withChannels hu
  have hursp : (a.run s).rsp ++ rs = u.rsp := by rw [hu']; rfl
  refine ⟨u.withChannels (a.run s).cmd u.rsp (a.run s).rspReady, v, ?_, hv, hrsp, hblock⟩
  rw [hcmd, List.cons_append, executeAll_cons hdoes, ← hursp]
  exact hall (a.run s).cmd (a.run s).rsp (a.run s).rspReady

/-- A host action moves words, and no answer of the block depends on where they are. -/
theorem AgreesWithLoop.of_hostAct {a : HostAct} (ha : a ≠ .reset) {s t : State} {x : Exchange}
    (h : AgreesWithLoop (hostAct a s) x t) :
    AgreesWithLoop s ⟨(movedBy a s).accepted ++ x.accepted, (movedBy a s).taken ++ x.taken⟩ t := by
  obtain ⟨rsp, ready, hact, htaken⟩ := hostAct_channels ha s
  obtain ⟨u, v, hu, hv, hrsp, hblock⟩ := h
  rw [hact] at hu
  obtain ⟨rs, -, hu', hall⟩ := executeAll_withChannels hu
  refine ⟨u.withChannels s.cmd (s.rsp ++ rs) s.rspReady, v, ?_, hv, ?_, hblock⟩
  · rw [← List.append_assoc]
    exact hall s.cmd s.rsp s.rspReady
  · have hursp : u.rsp = rsp ++ rs := by rw [hu']; rfl
    rw [State.withChannels, htaken, List.append_assoc, ← hursp, hrsp, List.append_assoc]

/-- Settles O55: steps and host actions keep the agreement with the loop, which holds of the empty run. -/
theorem interleavingDoesNotChangeResponses : Obligations.InterleavingDoesNotChangeResponses := by
  intro es s t x hinv hes hrun
  refine runEvents_rule (R := fun s x t => BatchInv s → AgreesWithLoop s x t) (· ≠ .host .reset) ?nil ?block ?host hes hrun hinv
  case nil =>
    intro s hinv
    obtain ⟨u, hu⟩ := executeAll_completes hinv s.cmd
    exact ⟨u, u, by rwa [List.append_nil], hu, rfl, rfl, rfl, rfl, rfl⟩
  case block =>
    intro s s' x t hstep ih hinv
    exact (ih (stepKeepsTheBatchInvariant s s' hinv hstep)).of_step hstep
  case host =>
    intro a s x t ha ih hinv
    have ha' : a ≠ .reset := fun h => ha (h ▸ rfl)
    obtain ⟨rsp, ready, hact, -⟩ := hostAct_channels ha' s
    exact (ih (by rw [hact]; exact hinv)).of_hostAct ha'

/-! ### Outstanding commands -/

/-- A step turns a waiting command into a waiting response. -/
theorem outstanding_step {s t : State} (h : step s = .next t) : outstanding t = outstanding s := by
  obtain rfl | ⟨w, ws, a, hcmd, -, rfl⟩ := step_next_cases h
  · rfl
  · simp only [outstanding, a.rsp_run, hcmd, List.length_append, List.length_cons, List.length_nil]
    omega

/-- A host action adds the accepted words and removes the taken ones. -/
theorem outstanding_hostAct {a : HostAct} (ha : a ≠ .reset) (s : State) :
    outstanding s + (movedBy a s).accepted.length = (movedBy a s).taken.length + outstanding (hostAct a s) := by
  obtain ⟨rsp, ready, hact, htaken⟩ := hostAct_channels ha s
  simp only [hact, outstanding, State.withChannels, htaken, List.length_append]
  omega

theorem outstanding_lt_of_cmdReady {s : State} (h : cmdReady s = true) : outstanding s < max acceptAhead 1 := by
  obtain ⟨-, hcmd, hrsp⟩ | hroom := cmdReady_iff.mp h
  · have hzero : outstanding s = 0 := by rw [outstanding, hcmd, hrsp]; rfl
    omega
  · omega

/-- CMD accepts one word at a time, and none beyond the bound. -/
theorem accepted_within_bound (a : HostAct) (s : State) :
    outstanding s + (movedBy a s).accepted.length ≤ max (outstanding s) (max acceptAhead 1) := by
  cases a with
  | push w =>
    cases hready : cmdReady s with
    | true =>
      have hlt := outstanding_lt_of_cmdReady hready
      simp only [movedBy, hready, if_true, List.length_singleton]
      omega
    | false => simp [movedBy, hready]
  | take => exact Nat.le_max_left _ _
  | setReady ready => exact Nat.le_max_left _ _
  | reset => exact Nat.le_max_left _ _

/-- No response is dropped (70_reset_and_hazards.md R173). -/
theorem outstanding_conserved {es : List Event} {s t : State} {x : Exchange} (hes : ∀ e ∈ es, e ≠ .host .reset)
    (h : runEvents es s = some (x, t)) : outstanding s + x.accepted.length = x.taken.length + outstanding t := by
  refine runEvents_rule (R := fun s x t => outstanding s + x.accepted.length = x.taken.length + outstanding t)
    (· ≠ .host .reset) (fun s => by simp) (fun s s' x t hstep ih => by rwa [outstanding_step hstep] at ih)
    (fun a s x t ha ih => ?_) hes h
  have hmoved := outstanding_hostAct (fun h => ha (h ▸ rfl)) s
  simp only [List.length_append]
  omega

theorem outstanding_bounded {es : List Event} {s t : State} {x : Exchange} (hes : ∀ e ∈ es, e ≠ .host .reset)
    (h : runEvents es s = some (x, t)) : outstanding t ≤ max (outstanding s) (max acceptAhead 1) := by
  refine runEvents_rule (R := fun s _ t => outstanding t ≤ max (outstanding s) (max acceptAhead 1)) (· ≠ .host .reset)
    (fun s => Nat.le_max_left _ _) (fun s s' x t hstep ih => by rwa [outstanding_step hstep] at ih)
    (fun a s x t ha ih => ?_) hes h
  have hmoved := outstanding_hostAct (fun h => ha (h ▸ rfl)) s
  have hbound := accepted_within_bound a s
  omega

theorem taken_eq_nil {es : List Event} {s t : State} {x : Exchange} (hes : ∀ e ∈ es, e ≠ .host .take)
    (h : runEvents es s = some (x, t)) : x.taken = [] := by
  refine runEvents_rule (R := fun _ x _ => x.taken = []) (· ≠ .host .take) (fun s => rfl) (fun s s' x t _ ih => ih)
    (fun a s x t ha ih => ?_) hes h
  cases a with
  | take => exact absurd rfl ha
  | push w => exact ih
  | setReady ready => exact ih
  | reset => exact ih

/-- Settles O59: conservation and the bound; without a take both leave no room for another command. -/
theorem hostThatTakesNothingIsStalled : Obligations.HostThatTakesNothingIsStalled := by
  intro es s t x hes hrun
  have hconserved := outstanding_conserved hes hrun
  have hbounded := outstanding_bounded hes hrun
  refine ⟨hconserved, fun hs => by omega, fun htake => ?_⟩
  have htaken := taken_eq_nil htake hrun
  have htaken0 : x.taken.length = 0 := by rw [htaken]; rfl
  refine ⟨htaken, fun hs => by omega, fun hfull => ⟨List.eq_nil_of_length_eq_zero (by omega), ?_⟩⟩
  exact Bool.eq_false_iff.mpr fun hready => by have := outstanding_lt_of_cmdReady hready; omega

end Sys2Proof.Machine
end

section
/-! SUPPORT. A whole batch: the outcomes of its beats give its responses, of which only the last closes it and reports a failed
beat (44_converter_commands.md R126; 30_encoding.md R59). -/

namespace Sys2Proof.Machine

/-- The word is a beat with this status and triple, in every state of a batch under `p`. -/
def BeatOf (p : BitVec 14) (w : Word) (o : Status × Rgb) : Prop :=
  ∀ s : State, s.mode = .batch → s.p = p → execute w s = .next (countBeat o.1 o.2 s)

/-- The responses to the beats of a batch up to its end, from the value of `BERR` before them. -/
def beatResponses : Bool → List (Status × Rgb) → List Word
  | _, [] => []
  | berr, [(st, t)] => [responseWord ⟨st, 3, true, berr || st != .ok, t⟩]
  | berr, (st, t) :: o :: os => responseWord ⟨st, 3, false, false, t⟩ :: beatResponses (berr || st != .ok) (o :: os)

/-- The beat that closes the batch. -/
theorem countBeat_of_last {s : State} (hlast : s.rem.toNat = 1) (st : Status) (t : Rgb) :
    countBeat st t s = { s with
      mode := .idle, rem := 0, berr := false
      rsp := s.rsp ++ [responseWord ⟨st, 3, true, s.berr || st != .ok, t⟩] } := by
  have hrem : s.rem - 1 = 0 := by bv_omega
  simp only [countBeat, lastBeat_eq_decide_one, hlast, hrem, decide_true, if_true, Bool.true_and]
  rfl

/-- A beat with others to come. -/
theorem countBeat_of_not_last {s : State} (hlast : s.rem.toNat ≠ 1) (st : Status) (t : Rgb) :
    countBeat st t s = { s with
      rem := s.rem - 1, berr := s.berr || st != .ok
      rsp := s.rsp ++ [responseWord ⟨st, 3, false, false, t⟩] } := by
  simp only [countBeat, lastBeat_eq_decide_one, hlast, decide_false, Bool.false_and, Bool.false_eq_true, if_false]
  rfl

/-- As many beats as `REM` expects close the batch and leave of it only `P`. -/
theorem executeAll_beats {p : BitVec 14} {ws : List Word} {os : List (Status × Rgb)} (h : List.Forall₂ (BeatOf p) ws os)
    {s : State} (hbatch : s.mode = .batch) (hp : s.p = p) (hlen : os.length = s.rem.toNat) (hne : os ≠ []) :
    executeAll ws s = some { s with
      mode := .idle, rem := 0, berr := false
      rsp := s.rsp ++ beatResponses s.berr os } := by
  induction h generalizing s with
  | nil => exact absurd rfl hne
  | @cons w o ws os hw hrest ih =>
    rw [executeAll, hw s hbatch hp]
    cases hrest with
    | nil =>
      rw [countBeat_of_last hlen.symm]
      rfl
    | @cons w' o' ws os hw' hrest =>
      rw [List.length_cons, List.length_cons] at hlen
      have hcount : (o' :: os).length = (s.rem - 1).toNat := by
        rw [List.length_cons]
        bv_omega
      rw [countBeat_of_not_last (by omega)]
      refine (ih (s := { s with
        rem := s.rem - 1, berr := s.berr || o.1 != .ok
        rsp := s.rsp ++ [responseWord ⟨o.1, 3, false, false, o.2⟩] }) hbatch hp hcount (List.cons_ne_nil _ _)).trans ?_
      simp [beatResponses]

theorem length_beatResponses (berr : Bool) (os : List (Status × Rgb)) : (beatResponses berr os).length = os.length := by
  induction os generalizing berr with
  | nil => rfl
  | cons o os ih =>
    cases os with
    | nil => rfl
    | cons o' os => simp [beatResponses, ih]

/-- Only the last response closes, and it reports a failure that came before the beats or among them. -/
theorem beatResponses_eq_concat (berr : Bool) {os : List (Status × Rgb)} (hne : os ≠ []) :
    ∃ beats closing, beatResponses berr os = beats ++ [closing] ∧
      (∀ r ∈ beats, rspOp r = 3 ∧ rspLast r = 0 ∧ rspBerr r = 0) ∧ rspOp closing = 3 ∧ rspLast closing = 1 ∧
      (rspBerr closing = 1 ↔ berr = true ∨ ∃ r ∈ beats ++ [closing], rspStatus r ≠ 0) := by
  induction os generalizing berr with
  | nil => exact absurd rfl hne
  | cons o os ih =>
    cases os with
    | nil => exact ⟨[], _, rfl, nofun, by simp, by simp, by simp⟩
    | cons o' os =>
      obtain ⟨beats, closing, heq, hbeats, hop, hlast, hberr⟩ := ih (berr || o.1 != .ok) (List.cons_ne_nil _ _)
      refine ⟨responseWord ⟨o.1, 3, false, false, o.2⟩ :: beats, closing, by rw [beatResponses, heq, List.cons_append], ?_, hop,
        hlast, ?_⟩
      · rw [List.forall_mem_cons]
        exact ⟨by simp, hbeats⟩
      · rw [hberr]
        simp [or_assoc]

/-- Every DATA word is a beat of every batch with legal parameters. -/
theorem exists_beatOf {p : BitVec 14} (hp : LegalP p) {w : Word} (hop : wordBits w 63 62 = 3) : ∃ o, BeatOf p w o := by
  obtain ⟨q, hparams⟩ := paramsOfP_of_legalP hp
  obtain ⟨st, t, hdoes⟩ := data_does (s := { State.reset with mode := .batch, p := p }) hop rfl hparams
  exact ⟨(st, t), fun s hbatch hsp => hdoes.2 s ⟨hbatch, fun _ => hsp⟩⟩

theorem exists_beats {p : BitVec 14} (hp : LegalP p) {ws : List Word} (hws : ∀ w ∈ ws, wordBits w 63 62 = 3) :
    ∃ os, List.Forall₂ (BeatOf p) ws os := by
  induction ws with
  | nil => exact ⟨[], .nil⟩
  | cons w ws ih =>
    obtain ⟨hw, hws⟩ := List.forall_mem_cons.mp hws
    obtain ⟨o, ho⟩ := exists_beatOf hp hw
    obtain ⟨os, hos⟩ := ih hws
    exact ⟨o :: os, .cons ho hos⟩

/-- Settles O51: the PLANE opens the batch, and as many beats as its length run it to its end. -/
theorem batchRunsToItsEnd : Obligations.BatchRunsToItsEnd := by
  intro s n space range din dout ws hidle hn hspace hdin hdout hlen hws
  have hlegal : LegalP (packParams space range din dout) := by
    rw [LegalP, pSpace_packParams, pDin_packParams, pDout_packParams]
    exact ⟨hspace, hdin, hdout⟩
  obtain ⟨os, hos⟩ := exists_beats hlegal hws
  have hlen' : os.length = n.toNat := hos.length_eq ▸ hlen
  have hn0 : n.toNat ≠ 0 := fun h => hn (BitVec.eq_of_toNat_eq h)
  have hne : os ≠ [] := by
    rintro rfl
    exact hn0 hlen'.symm
  obtain ⟨beats, closing, heq, hbeats, hop, hlast, hberr⟩ := beatResponses_eq_concat false hne
  refine ⟨beats, closing, ?_, ?_, hbeats, hop, hlast, by simpa using hberr⟩
  · rw [executeAll, ← exec_eq_execute_encode, planeOpensABatch s n space range din dout hidle hn hspace hdin hdout]
    refine (executeAll_beats hos rfl rfl hlen' hne).trans ?_
    simp [heq]
  · have hcount := length_beatResponses false os
    rw [heq, List.length_append, List.length_singleton] at hcount
    rw [hcount, hlen', hlen]

end Sys2Proof.Machine
end

section
/-! SUPPORT. The host procedures on a block between calls: what one word and a sequence of words get, a batch of positions, and long
planes in pieces (30_encoding.md R64, R65; 44_converter_commands.md R129 to R131; log entry 7). -/

namespace Sys2Proof.Machine

/-- Nothing waits on either channel, and the host is ready: the host's own part of `BetweenCalls`. -/
structure EmptyChannels (s : State) : Prop where
  cmd : s.cmd = []
  rsp : s.rsp = []
  ready : s.rspReady = true

theorem emptyChannels_of_betweenCalls {s : State} (h : BetweenCalls s) : EmptyChannels s := by
  obtain ⟨-, -, hcmd, hrsp, hready⟩ := h
  exact ⟨hcmd, hrsp, hready⟩

theorem idle_of_betweenCalls {s : State} (h : BetweenCalls s) : s.mode = .idle := h.2.1

/-- A block that is idle with nothing of a batch left, after its responses were taken. -/
theorem betweenCalls_of_closed {s : State} (h : EmptyChannels s) :
    BetweenCalls { s with mode := .idle, rem := 0, berr := false } :=
  ⟨⟨fun _ => ⟨rfl, rfl⟩, nofun⟩, rfl, h.cmd, h.rsp, h.ready⟩

/-- One word and its one response (20_memory.md R39). -/
theorem ask_of_execute {w r : Word} {s t : State} (hs : EmptyChannels s) (h : execute w s = .next t) (hr : t.rsp = [r]) :
    ask w s = some (r, { t with rsp := [] }) := by
  have hpush : hostAct (.push w) s = { s with cmd := [w] } := pushesWaitForRoom.2.1 s w hs.ready hs.cmd hs.rsp
  have hpopped : { s with cmd := [] } = s := by rw [← hs.cmd]
  have hstep : step (hostAct (.push w) s) = .next t := by
    rw [hpush, step_of_cmd (s := { s with cmd := [w] }) (ws := []) hs.ready rfl]
    exact hpopped ▸ h
  simp only [ask, hstep, hr, hostAct_take, List.tail_cons]

/-- A word that is only answered leaves the block as it was. -/
theorem ask_of_respond {w : Word} {s : State} {x : Response} (hs : EmptyChannels s) (h : execute w s = .next (respond x s)) :
    ask w s = some (responseWord x, s) := by
  have hback : { respond x s with rsp := [] } = s := by
    rw [respond, ← hs.rsp]
  rw [ask_of_execute hs h (r := responseWord x) (by rw [respond_rsp, hs.rsp, List.nil_append]), hback]

/-- The host's sequence of questions is the loop, with the responses taken. -/
theorem askAll_of_executeAll {ws : List Word} {s u : State} (hs : EmptyChannels s) (h : executeAll ws s = some u) :
    askAll ws s = some (u.rsp, { u with rsp := [] }) := by
  induction ws generalizing s u with
  | nil =>
    cases h
    rw [askAll, hs.rsp, ← hs.rsp]
  | cons w ws ih =>
    obtain ⟨a, hdoes, hrest⟩ := does_of_executeAll h
    obtain ⟨rs, -, hu, hall⟩ := executeAll_withChannels hrest
    have hrsp : (a.run s).rsp = [responseWord (a.response s)] := by rw [a.rsp_run, hs.rsp, List.nil_append]
    have hnext : EmptyChannels { a.run s with rsp := [] } :=
      ⟨(a.cmd_run s).trans hs.cmd, rfl, (a.rspReady_run s).trans hs.ready⟩
    have hu' : u.rsp = responseWord (a.response s) :: rs := by
      rw [hu, State.withChannels, hrsp, List.singleton_append]
    have hafter : { u with rsp := [] } = { u.withChannels (a.run s).cmd rs (a.run s).rspReady with rsp := [] } := by
      rw [hu]
      rfl
    rw [askAll, ask_of_execute hs hdoes.execute_eq hrsp]
    simp only [ih hnext (hall (a.run s).cmd [] (a.run s).rspReady), hu', hafter]
    rfl

/-! ### One pixel -/

/-- The exact pixel of a position. -/
abbrev pixelAt (q : Params) (x : Position) : Rgb := pixelQ q x.y.toNat x.cb.toNat x.cr.toNat

/-- The three samples of a position are in range (44_converter_commands.md R120). -/
abbrev InRange (q : Params) (x : Position) : Prop := max x.y.toNat (max x.cb.toNat x.cr.toNat) ≤ 2 ^ depthBits q.din - 1

/-- The three fields of a response read back as the triple. -/
theorem rspRgb_responseWord {st : Status} {op : BitVec 2} {last berr : Bool} {t : Rgb} (h : FitsResponse t) :
    rspRgb (responseWord ⟨st, op, last, berr, t⟩) = t := by
  obtain ⟨hr, hg, hb⟩ := h
  simp only [rspRgb, rspR_responseWord, rspG_responseWord, rspB_responseWord, BitVec.toNat_ofNat, Nat.mod_eq_of_lt hr,
    Nat.mod_eq_of_lt hg, Nat.mod_eq_of_lt hb]

theorem convertPixel_of_failed {s : State} {c : CallParams} {x : Position} {e : Status} (hs : EmptyChannels s) (he : e ≠ .ok)
    (h : execute (pixelCommand c x) s = .next (failCommand e 1 s)) :
    convertPixel c x s = some (⟨.failed (statusCode e), [pixelCommand c x]⟩, s) := by
  simp only [convertPixel, ask_of_respond hs h, rspStatus_responseWord, if_neg (mt statusCode_eq_zero.mp he)]

theorem convertPixel_of_inRange {s : State} {c : CallParams} {q : Params} {x : Position} (hs : BetweenCalls s)
    (hcheck : checkParams cfg c.space c.range c.din c.dout = .ok q) (hx : InRange q x) :
    convertPixel c x s = some (⟨.value (pixelAt q x), [pixelCommand c x]⟩, s) := by
  have hexec : execute (pixelCommand c x) s = .next (respond ⟨.ok, 1, false, false, pixelAt q x⟩ s) := by
    rw [pixelCommand, ← exec_eq_execute_encode]
    exact execCvt_of_ok (idle_of_betweenCalls hs) hcheck (convStatus_eq_pixelQ hx)
  simp only [convertPixel, ask_of_respond (emptyChannels_of_betweenCalls hs) hexec, rspStatus_responseWord,
    if_pos (statusCode_eq_zero.mpr rfl), rspRgb_responseWord (fitsResponse_pixelQ hx)]

/-! ### One batch -/

/-- What a well-formed beat answers, in range and out of range. -/
def beatOutcome (q : Params) (x : Position) : Status × Rgb :=
  if InRange q x then (.ok, pixelAt q x) else (.sampleOutOfRange, noRgb)

theorem convStatus_eq_beatOutcome (q : Params) (x : Position) :
    convStatus cfg q x.y.toNat x.cb.toNat x.cr.toNat = .ok (beatOutcome q x) := by
  by_cases hx : InRange q x
  · rw [beatOutcome, if_pos hx, convStatus_eq_pixelQ hx]
  · rw [beatOutcome, if_neg hx, convStatus_of_outOfRange (Nat.not_le.mp hx)]

theorem dataCommand_beatOf {p : BitVec 14} {q : Params} (hparams : paramsOfP cfg p = .ok q) (x : Position) :
    BeatOf p (dataCommand x) (beatOutcome q x) := by
  intro s hbatch hp
  rw [dataCommand, ← exec_eq_execute_encode]
  exact execData_of_ok hbatch (hp ▸ hparams) (convStatus_eq_beatOutcome q x)

theorem dataCommands_beats {p : BitVec 14} {q : Params} (hparams : paramsOfP cfg p = .ok q) (xs : List Position) :
    List.Forall₂ (BeatOf p) (xs.map dataCommand) (xs.map (beatOutcome q)) := by
  rw [List.forall₂_map_left_iff, List.forall₂_map_right_iff]
  exact List.forall₂_same.mpr fun x _ => dataCommand_beatOf hparams x

theorem fitsResponse_beatOutcome (q : Params) (x : Position) : FitsResponse (beatOutcome q x).2 := by
  by_cases hx : InRange q x
  · rw [beatOutcome, if_pos hx]
    exact fitsResponse_pixelQ hx
  · rw [beatOutcome, if_neg hx]
    exact fitsResponse_noRgb

theorem map_rspRgb_beatResponses (berr : Bool) {os : List (Status × Rgb)} (h : ∀ o ∈ os, FitsResponse o.2) :
    (beatResponses berr os).map rspRgb = os.map Prod.snd := by
  induction os generalizing berr with
  | nil => rfl
  | cons o os ih =>
    obtain ⟨ho, hos⟩ := List.forall_mem_cons.mp h
    cases os with
    | nil => simp [beatResponses, rspRgb_responseWord ho]
    | cons o' os =>
      rw [beatResponses, List.map_cons, rspRgb_responseWord ho, ih _ hos]
      rfl

@[simp] theorem ofBool_beq_one (b : Bool) : (BitVec.ofBool b == 1#1) = b := by cases b <;> rfl

/-- The host finds a failed batch exactly when some beat failed, or `BERR` was set before. -/
theorem any_closing_beatResponses (berr : Bool) {os : List (Status × Rgb)} (hne : os ≠ []) :
    (beatResponses berr os).any (fun r => rspLast r == 1 && rspBerr r == 1) = (berr || os.any fun o => o.1 != .ok) := by
  induction os generalizing berr with
  | nil => exact absurd rfl hne
  | cons o os ih =>
    cases os with
    | nil => simp [beatResponses]
    | cons o' os =>
      rw [beatResponses, List.any_cons, ih _ (List.cons_ne_nil _ _), List.any_cons (a := o)]
      simp only [rspLast_responseWord, BitVec.ofNat_eq_ofNat, ofBool_beq_one, Bool.false_and, Bool.false_or, Bool.or_assoc]

/-- How a call on planes of these positions ends: with the exact pixels, or as a failed batch. -/
def planeOutcome (q : Params) (xs : List Position) : CallResult (List Rgb) :=
  if ∀ x ∈ xs, InRange q x then .value (xs.map (pixelAt q)) else .failedBatch

theorem planeOutcome_of_inRange {q : Params} {xs : List Position} (h : ∀ x ∈ xs, InRange q x) :
    planeOutcome q xs = .value (xs.map (pixelAt q)) := if_pos h

theorem planeOutcome_of_outOfRange {q : Params} {xs : List Position} (h : ¬ ∀ x ∈ xs, InRange q x) :
    planeOutcome q xs = .failedBatch := if_neg h

theorem batchResult_beats (q : Params) {xs : List Position} (hne : xs ≠ []) :
    batchResult (beatResponses false (xs.map (beatOutcome q))) = planeOutcome q xs := by
  have hfits : ∀ o ∈ xs.map (beatOutcome q), FitsResponse o.2 := List.forall_mem_map.mpr fun x _ => fitsResponse_beatOutcome q x
  rw [batchResult, any_closing_beatResponses false (by simpa using hne), map_rspRgb_beatResponses false hfits, Bool.false_or]
  by_cases h : ∀ x ∈ xs, InRange q x
  · have hok : ∀ x ∈ xs, beatOutcome q x = (.ok, pixelAt q x) := fun x hx => if_pos (h x hx)
    rw [planeOutcome_of_inRange h, List.map_congr_left hok]
    simp
  · obtain ⟨x, hx, hout⟩ : ∃ x ∈ xs, ¬ InRange q x := by simpa using h
    have hfailed : (xs.map (beatOutcome q)).any (fun o => o.1 != .ok) = true := by
      rw [List.any_eq_true]
      exact ⟨_, List.mem_map_of_mem hx, by rw [beatOutcome, if_neg hout]; rfl⟩
    rw [planeOutcome_of_outOfRange h, if_pos hfailed]

theorem positions_map (xs : List Position) :
    positions (xs.map Position.y) (xs.map Position.cb) (xs.map Position.cr) = xs := by
  induction xs with
  | nil => rfl
  | cons x xs ih => rw [List.map_cons, List.map_cons, List.map_cons, positions, ih]

/-- A PLANE word with three equal lengths and good parameters, outside a batch (44_converter_commands.md R124, R125). -/
theorem execute_planeCommand_of_ok {s : State} {c : CallParams} {q : Params} {n : Nat} (hidle : s.mode = .idle)
    (hcheck : checkParams cfg c.space c.range c.din c.dout = .ok q) (hn : n ≤ 65535) :
    execute (planeCommand c n n n) s =
      if n = 0 then .next (respond ⟨.ok, 2, true, false, noRgb⟩ s)
      else .next (openBatch (packParams c.space c.range c.din c.dout) (BitVec.ofNat 16 n) s) := by
  have hzero : BitVec.ofNat 16 n = 0 ↔ n = 0 := by
    rw [← BitVec.toNat_inj, BitVec.toNat_ofNat, Nat.mod_eq_of_lt (by omega)]
    rfl
  rw [planeCommand, ← exec_eq_execute_encode]
  simp only [exec, execPlane, hidle, hcheck, and_self, not_true, if_false, hzero]

/-- A rejected PLANE: nothing else is sent (44_converter_commands.md R129). -/
theorem convertPlane_of_rejected {s : State} {c : CallParams} {ys cbs crs : List Field16} {e : Status} (hs : EmptyChannels s)
    (he : e ≠ .ok) (h : execute (planeCommand c ys.length cbs.length crs.length) s = .next (failCommand e 2 s)) :
    convertPlane c ys cbs crs s = some (⟨.failed (statusCode e), [planeCommand c ys.length cbs.length crs.length]⟩, s) := by
  simp only [convertPlane, ask_of_respond hs h, rspStatus_responseWord, ne_eq, statusCode_eq_zero, he, not_false_eq_true, if_true]

/-- An accepted PLANE: all the beats are sent. -/
theorem convertPlane_of_accepted {s t u : State} {c : CallParams} {xs : List Position} {r : Word} {rs : List Word}
    (hask : ask (planeCommand c xs.length xs.length xs.length) s = some (r, t)) (hr : rspStatus r = 0)
    (hbeats : askAll (xs.map dataCommand) t = some (rs, u)) :
    convertPlane c (xs.map Position.y) (xs.map Position.cb) (xs.map Position.cr) s =
      some (⟨batchResult rs, planeCommand c xs.length xs.length xs.length :: xs.map dataCommand⟩, u) := by
  simp only [convertPlane, List.length_map, positions_map, hask, hr, ne_eq, not_true, if_false, hbeats]

/-- `convert_plane` with good parameters on planes of one batch, in range or not. -/
theorem convertPlane_of_ok {s : State} {c : CallParams} {q : Params} {xs : List Position} (hs : BetweenCalls s)
    (hcheck : checkParams cfg c.space c.range c.din c.dout = .ok q) (hlen : xs.length ≤ 65535) :
    ∃ t, convertPlane c (xs.map Position.y) (xs.map Position.cb) (xs.map Position.cr) s =
        some (⟨planeOutcome q xs, planeCommand c xs.length xs.length xs.length :: xs.map dataCommand⟩, t) ∧ BetweenCalls t := by
  have hchannels := emptyChannels_of_betweenCalls hs
  have hexec := execute_planeCommand_of_ok (idle_of_betweenCalls hs) hcheck hlen
  by_cases hne : xs = []
  · subst hne
    have hask := ask_of_respond hchannels (hexec.trans (if_pos rfl))
    exact ⟨s, convertPlane_of_accepted hask (by simp [statusCode]) rfl, hs⟩
  · have hn0 : xs.length ≠ 0 := mt List.eq_nil_of_length_eq_zero hne
    rw [if_neg hn0] at hexec
    have hask := ask_of_execute hchannels hexec
      (r := responseWord ⟨.ok, 2, false, false, noRgb⟩) (by rw [openBatch_rsp, hchannels.rsp, List.nil_append])
    have hopen : EmptyChannels
        { openBatch (packParams c.space c.range c.din c.dout) (BitVec.ofNat 16 xs.length) s with rsp := [] } :=
      ⟨hchannels.cmd, rfl, hchannels.ready⟩
    have hbeats := dataCommands_beats ((paramsOfP_packParams ..).trans hcheck) xs
    have hrem : (xs.map (beatOutcome q)).length = (BitVec.ofNat 16 xs.length).toNat := by
      rw [List.length_map, BitVec.toNat_ofNat, Nat.mod_eq_of_lt (by omega)]
    have hrun := askAll_of_executeAll hopen (executeAll_beats hbeats rfl rfl hrem (by simpa using hne))
    refine ⟨_, ?_, betweenCalls_of_closed hopen⟩
    rw [← batchResult_beats q hne]
    exact convertPlane_of_accepted hask (by simp [statusCode]) hrun

/-- Settles O52: a batch and a CVT both give the exact pixels of samples in range. -/
theorem convertPlaneIsPointwise : Obligations.ConvertPlaneIsPointwise := by
  intro s q xs hinv hidle hcmd hrsp hready hlen hxs c
  have hs : BetweenCalls s := ⟨hinv, hidle, hcmd, hrsp, hready⟩
  have hcheck : checkParams cfg c.space c.range c.din c.dout = .ok q := checkParams_codes q
  have hrange : ∀ x ∈ xs, InRange q x := fun x hx => by
    obtain ⟨hy, hcb, hcr⟩ := hxs x hx
    exact max_le hy (max_le hcb hcr)
  obtain ⟨t, hcall, hinv', hidle', hcmd', hrsp', hready'⟩ := convertPlane_of_ok hs hcheck hlen
  obtain ⟨hrem, hberr⟩ := hinv'.1 hidle'
  rw [planeOutcome_of_inRange hrange] at hcall
  exact ⟨⟨t, hcall, hidle', hrem, hberr, hcmd', hrsp', hready'⟩, fun x hx => convertPixel_of_inRange hs hcheck (hrange x hx)⟩

/-! ### Long planes -/

theorem flatten_pieces {n : Nat} (hn : 0 < n) {fuel : Nat} {xs : List Position} (h : xs.length ≤ fuel) :
    (pieces n fuel xs).flatten = xs := by
  induction fuel generalizing xs with
  | zero =>
    rw [List.eq_nil_of_length_eq_zero (Nat.le_zero.mp h)]
    rfl
  | succ fuel ih =>
    cases xs with
    | nil => rfl
    | cons x xs =>
      have hrest : ((x :: xs).drop n).length ≤ fuel := by
        rw [List.length_drop]
        omega
      rw [pieces, List.flatten_cons, ih hrest, List.take_append_drop]

theorem length_le_of_mem_pieces {n fuel : Nat} {xs p : List Position} (h : p ∈ pieces n fuel xs) : p.length ≤ n := by
  induction fuel generalizing xs with
  | zero => cases h
  | succ fuel ih =>
    cases xs with
    | nil => cases h
    | cons x xs =>
      rw [pieces, List.mem_cons] at h
      obtain rfl | h := h
      · exact List.length_take_le _ _
      · exact ih h

/-- Pieces converted one after the other end as the positions in a row do. -/
theorem convertPieces_of_ok {c : CallParams} {q : Params} (hcheck : checkParams cfg c.space c.range c.din c.dout = .ok q)
    {ps : List (List Position)} (hps : ∀ p ∈ ps, p.length ≤ 65535) {s : State} (hs : BetweenCalls s) :
    ∃ sent t, convertPieces c ps s = some (⟨planeOutcome q ps.flatten, sent⟩, t) ∧ BetweenCalls t := by
  induction ps generalizing s with
  | nil => exact ⟨[], s, rfl, hs⟩
  | cons p ps ih =>
    obtain ⟨hp, hps⟩ := List.forall_mem_cons.mp hps
    obtain ⟨t, hplane, ht⟩ := convertPlane_of_ok hs hcheck hp
    by_cases hfirst : ∀ x ∈ p, InRange q x
    case neg =>
      have hall : ¬ ∀ x ∈ (p :: ps).flatten, InRange q x := fun h => hfirst fun x hx =>
        h x (List.mem_flatten_of_mem List.mem_cons_self hx)
      rw [planeOutcome_of_outOfRange hfirst] at hplane
      exact ⟨_, t, by rw [convertPieces, hplane, planeOutcome_of_outOfRange hall], ht⟩
    rw [planeOutcome_of_inRange hfirst] at hplane
    obtain ⟨sent, u, hrest, hu⟩ := ih hps ht
    by_cases hothers : ∀ x ∈ ps.flatten, InRange q x
    case neg =>
      have hall : ¬ ∀ x ∈ (p :: ps).flatten, InRange q x := fun h => hothers fun x hx => h x (List.mem_append_right p hx)
      rw [planeOutcome_of_outOfRange hothers] at hrest
      exact ⟨_, u, by rw [convertPieces, hplane]; simp only [hrest, planeOutcome_of_outOfRange hall]; rfl, hu⟩
    have hall : ∀ x ∈ (p :: ps).flatten, InRange q x := fun x hx => (List.mem_append.mp hx).elim (hfirst x) (hothers x)
    rw [planeOutcome_of_inRange hothers] at hrest
    have hjoin : planeOutcome q (p :: ps).flatten = .value (p.map (pixelAt q) ++ ps.flatten.map (pixelAt q)) := by
      rw [planeOutcome_of_inRange hall, List.flatten_cons, List.map_append]
    exact ⟨_, u, by rw [convertPieces, hplane, hjoin]; simp only [hrest]; rfl, hu⟩

theorem convertLongPlane_of_short {c : CallParams} {xs : List Position} (h : xs.length ≤ 65535) (s : State) :
    convertLongPlane c (xs.map Position.y) (xs.map Position.cb) (xs.map Position.cr) s =
      convertPlane c (xs.map Position.y) (xs.map Position.cb) (xs.map Position.cr) s := by
  simp only [convertLongPlane, List.length_map, h, and_self, if_true]

theorem convertLongPlane_of_long {c : CallParams} {xs : List Position} (h : 65535 < xs.length) (s : State) :
    convertLongPlane c (xs.map Position.y) (xs.map Position.cb) (xs.map Position.cr) s =
      convertPieces c (pieces 65535 xs.length xs) s := by
  simp only [convertLongPlane, List.length_map, positions_map, Nat.not_le.mpr h, and_self, if_false, if_true]

/-- `convert_plane` with good parameters on planes of any length. -/
theorem convertLongPlane_of_ok {c : CallParams} {q : Params} (hcheck : checkParams cfg c.space c.range c.din c.dout = .ok q)
    (xs : List Position) {s : State} (hs : BetweenCalls s) :
    ∃ sent t, convertLongPlane c (xs.map Position.y) (xs.map Position.cb) (xs.map Position.cr) s =
        some (⟨planeOutcome q xs, sent⟩, t) ∧ BetweenCalls t := by
  obtain hshort | hlong := le_or_gt xs.length 65535
  · rw [convertLongPlane_of_short hshort]
    exact ⟨_, convertPlane_of_ok hs hcheck hshort⟩
  · have hpieces := convertPieces_of_ok hcheck (ps := pieces 65535 xs.length xs) (fun p => length_le_of_mem_pieces) hs
    rwa [flatten_pieces (by decide) le_rfl, ← convertLongPlane_of_long hlong] at hpieces

/-- Settles O53: planes of any length end with the exact pixels of samples in range. -/
theorem longPlanesArePointwise : Obligations.LongPlanesArePointwise := by
  intro s q xs hinv hidle hcmd hrsp hready hxs
  have hrange : ∀ x ∈ xs, InRange q x := fun x hx => by
    obtain ⟨hy, hcb, hcr⟩ := hxs x hx
    exact max_le hy (max_le hcb hcr)
  obtain ⟨sent, t, hcall, -, hidle', -⟩ :=
    convertLongPlane_of_ok (c := ⟨spaceCode q.space, rangeCode q.range, depthField q.din, depthField q.dout⟩)
      (checkParams_codes q) xs ⟨hinv, hidle, hcmd, hrsp, hready⟩
  rw [planeOutcome_of_inRange hrange] at hcall
  exact ⟨sent, t, hcall, hidle'⟩

/-! ### Calls that fail -/

theorem execute_planeCommand_of_error {s : State} {c : CallParams} {e : Status} (ny ncb ncr : Nat) (hidle : s.mode = .idle)
    (hcheck : checkParams cfg c.space c.range c.din c.dout = .error e) :
    execute (planeCommand c ny ncb ncr) s = .next (failCommand e 2 s) := by
  rw [planeCommand, ← exec_eq_execute_encode]
  exact execPlane_of_error hidle hcheck

theorem execute_planeCommand_of_unequal {s : State} {c : CallParams} {q : Params} {ny ncb ncr : Nat} (hidle : s.mode = .idle)
    (hcheck : checkParams cfg c.space c.range c.din c.dout = .ok q) (hy : ny ≤ 65535) (hcb : ncb ≤ 65535) (hcr : ncr ≤ 65535)
    (h : ¬ (ny = ncb ∧ ncb = ncr)) :
    execute (planeCommand c ny ncb ncr) s = .next (failCommand .planeLengthMismatch 2 s) := by
  rw [planeCommand, ← exec_eq_execute_encode]
  refine execPlane_of_unequal hidle hcheck ?_
  simpa only [← BitVec.toNat_inj, BitVec.toNat_ofNat, Nat.mod_eq_of_lt (Nat.lt_succ_of_le hy),
    Nat.mod_eq_of_lt (Nat.lt_succ_of_le hcb), Nat.mod_eq_of_lt (Nat.lt_succ_of_le hcr)] using h

theorem not_forall_inRange {q : Params} {xs : List Position}
    (h : ∃ x ∈ xs, 2 ^ depthBits q.din - 1 < max x.y.toNat (max x.cb.toNat x.cr.toNat)) : ¬ ∀ x ∈ xs, InRange q x := by
  obtain ⟨x, hx, hout⟩ := h
  exact fun hall => absurd (hall x hx) (Nat.not_le.mpr hout)

/-- Planes longer than a batch with rejected parameters: the first piece's PLANE ends the call. -/
theorem convertLongPlane_of_rejected {s : State} {c : CallParams} {xs : List Position} {e : Status} (hs : BetweenCalls s)
    (hcheck : checkParams cfg c.space c.range c.din c.dout = .error e) (hlong : 65535 < xs.length) :
    convertLongPlane c (xs.map Position.y) (xs.map Position.cb) (xs.map Position.cr) s =
      some (⟨.failed (statusCode e), [planeCommand c 65535 65535 65535]⟩, s) := by
  have hpieces : pieces 65535 xs.length xs = xs.take 65535 :: pieces 65535 (xs.length - 1) (xs.drop 65535) := by
    cases xs with
    | nil => cases hlong
    | cons x xs => rfl
  have hfirst := convertPlane_of_rejected (ys := (xs.take 65535).map Position.y) (cbs := (xs.take 65535).map Position.cb)
    (crs := (xs.take 65535).map Position.cr) (emptyChannels_of_betweenCalls hs) (ne_ok_of_checkParams_error hcheck)
    (execute_planeCommand_of_error _ _ _ (idle_of_betweenCalls hs) hcheck)
  simp only [List.length_map, List.length_take, Nat.min_eq_left hlong.le] at hfirst
  rw [convertLongPlane_of_long hlong, hpieces, convertPieces, hfirst]

/-- Settles O60: a rejected word ends its call with its status; a sample out of range makes the outcome of all the positions a
failed batch. -/
theorem failedCallsReportTheirFailure : Obligations.FailedCallsReportTheirFailure := by
  refine ⟨fun s c x e hs hcheck => ?pixelRejected, fun s c q x hs hcheck hout => ?pixelOutOfRange,
    fun s c ys cbs crs e hs hcheck => ?planeRejected, fun s c q ys cbs crs hs hcheck hy hcb hcr hne => ?planeUnequal,
    fun s c q xs hs hcheck hlen hout => ?planeOutOfRange, fun s c ys cbs crs hlong hne => ?longUnequal,
    fun s c xs e hs hcheck hlong => convertLongPlane_of_rejected hs hcheck hlong, fun s c q xs hs hcheck hout => ?longOutOfRange⟩
  case pixelRejected =>
    refine convertPixel_of_failed (emptyChannels_of_betweenCalls hs) (ne_ok_of_checkParams_error hcheck) ?_
    rw [pixelCommand, ← exec_eq_execute_encode]
    exact execCvt_of_error (idle_of_betweenCalls hs) hcheck
  case pixelOutOfRange =>
    refine convertPixel_of_failed (e := .sampleOutOfRange) (emptyChannels_of_betweenCalls hs) (by decide) ?_
    rw [pixelCommand, ← exec_eq_execute_encode]
    exact execCvt_of_ok (idle_of_betweenCalls hs) hcheck (convStatus_of_outOfRange hout)
  case planeRejected =>
    exact convertPlane_of_rejected (emptyChannels_of_betweenCalls hs) (ne_ok_of_checkParams_error hcheck)
      (execute_planeCommand_of_error _ _ _ (idle_of_betweenCalls hs) hcheck)
  case planeUnequal =>
    exact convertPlane_of_rejected (e := .planeLengthMismatch) (emptyChannels_of_betweenCalls hs) (by decide)
      (execute_planeCommand_of_unequal (idle_of_betweenCalls hs) hcheck hy hcb hcr hne)
  case planeOutOfRange =>
    rw [← planeOutcome_of_outOfRange (not_forall_inRange hout)]
    exact convertPlane_of_ok hs hcheck hlen
  case longUnequal => simp only [convertLongPlane, if_neg hlong, if_neg hne, statusCode]
  case longOutOfRange =>
    rw [← planeOutcome_of_outOfRange (not_forall_inRange hout)]
    exact convertLongPlane_of_ok hcheck xs hs

end Sys2Proof.Machine
end

section
/-! SUPPORT. The assembler: what a mnemonic with operand texts assembles to, and how a line of text falls into these parts
(30_encoding.md R63; log entry 8). -/

namespace Sys2Proof.Machine

/-! ### A mnemonic and its operands -/

/-- What a CVT or a PLANE reads from its seven operand texts. -/
def ReadsSeven (a b c sp rg i o : List Char) (va vb vc : Field16) (vsp : BitVec 3) (vrg : BitVec 1) (vi vo : BitVec 5) : Prop :=
  numberField 16 a = some va ∧ numberField 16 b = some vb ∧ numberField 16 c = some vc ∧ spaceOperand sp = some vsp ∧
    rangeOperand rg = some vrg ∧ numberField 5 i = some vi ∧ numberField 5 o = some vo

theorem assembleCommand_data_iff {y cb cr : List Char} {i : Instr} :
    assembleCommand "DATA".toList [y, cb, cr] = some i ↔
      ∃ vy vcb vcr, numberField 16 y = some vy ∧ numberField 16 cb = some vcb ∧ numberField 16 cr = some vcr ∧
        i = .data vy vcb vcr 0 := by
  simp only [assembleCommand, if_true, Option.bind_eq_bind, Option.bind_eq_some_iff, Option.pure_def, Option.some.injEq]
  constructor
  · rintro ⟨vy, hy, vcb, hcb, vcr, hcr, rfl⟩
    exact ⟨vy, vcb, vcr, hy, hcb, hcr, rfl⟩
  · rintro ⟨vy, vcb, vcr, hy, hcb, hcr, rfl⟩
    exact ⟨vy, hy, vcb, hcb, vcr, hcr, rfl⟩

theorem assembleCommand_cvt_iff {a b c sp rg di dd : List Char} {i : Instr} :
    assembleCommand "CVT".toList [a, b, c, sp, rg, di, dd] = some i ↔
      ∃ va vb vc vsp vrg vdi vdd, ReadsSeven a b c sp rg di dd va vb vc vsp vrg vdi vdd ∧
        i = .cvt va vb vc vsp vrg vdi vdd := by
  simp only [assembleCommand, if_true, Option.bind_eq_bind, Option.bind_eq_some_iff, Option.pure_def, Option.some.injEq]
  constructor
  · rintro ⟨va, ha, vb, hb, vc, hc, vsp, hsp, vrg, hrg, vdi, hdi, vdd, hdd, rfl⟩
    exact ⟨va, vb, vc, vsp, vrg, vdi, vdd, ⟨ha, hb, hc, hsp, hrg, hdi, hdd⟩, rfl⟩
  · rintro ⟨va, vb, vc, vsp, vrg, vdi, vdd, ⟨ha, hb, hc, hsp, hrg, hdi, hdd⟩, rfl⟩
    exact ⟨va, ha, vb, hb, vc, hc, vsp, hsp, vrg, hrg, vdi, hdi, vdd, hdd, rfl⟩

theorem assembleCommand_plane_iff {a b c sp rg di dd : List Char} {i : Instr} :
    assembleCommand "PLANE".toList [a, b, c, sp, rg, di, dd] = some i ↔
      ∃ va vb vc vsp vrg vdi vdd, ReadsSeven a b c sp rg di dd va vb vc vsp vrg vdi vdd ∧
        i = .plane va vb vc vsp vrg vdi vdd := by
  have hne : ¬ "PLANE".toList = "CVT".toList := by decide
  simp only [assembleCommand, if_neg hne, if_true, Option.bind_eq_bind, Option.bind_eq_some_iff, Option.pure_def,
    Option.some.injEq]
  constructor
  · rintro ⟨va, ha, vb, hb, vc, hc, vsp, hsp, vrg, hrg, vdi, hdi, vdd, hdd, rfl⟩
    exact ⟨va, vb, vc, vsp, vrg, vdi, vdd, ⟨ha, hb, hc, hsp, hrg, hdi, hdd⟩, rfl⟩
  · rintro ⟨va, vb, vc, vsp, vrg, vdi, vdd, ⟨ha, hb, hc, hsp, hrg, hdi, hdd⟩, rfl⟩
    exact ⟨va, ha, vb, hb, vc, hc, vsp, hsp, vrg, hrg, vdi, hdi, vdd, hdd, rfl⟩

theorem assembleCommand_shape {mnemonic : List Char} {ops : List (List Char)} {i : Instr}
    (h : assembleCommand mnemonic ops = some i) :
    (mnemonic = "DATA".toList ∧ ∃ y cb cr, ops = [y, cb, cr]) ∨
      ((mnemonic = "CVT".toList ∨ mnemonic = "PLANE".toList) ∧ ∃ a b c sp rg di dd, ops = [a, b, c, sp, rg, di, dd]) := by
  unfold assembleCommand at h
  split at h
  · split at h
    case isTrue hdata => exact .inl ⟨hdata, _, _, _, rfl⟩
    case isFalse => cases h
  · split at h
    case isTrue hcvt => exact .inr ⟨.inl hcvt, _, _, _, _, _, _, _, rfl⟩
    case isFalse =>
      split at h
      case isTrue hplane => exact .inr ⟨.inr hplane, _, _, _, _, _, _, _, rfl⟩
      case isFalse => cases h
  · cases h

/-- Only DATA with three operands, and CVT and PLANE with seven, assemble, and never with a reserved bit set. -/
theorem assembleCommand_eq_some {mnemonic : List Char} {ops : List (List Char)} {i : Instr}
    (h : assembleCommand mnemonic ops = some i) :
    (mnemonic = "DATA".toList ∧ ops.length = 3 ∨ (mnemonic = "CVT".toList ∨ mnemonic = "PLANE".toList) ∧ ops.length = 7) ∧
      i.wellFormed = true := by
  obtain ⟨rfl, y, cb, cr, rfl⟩ | ⟨rfl | rfl, a, b, c, sp, rg, di, dd, rfl⟩ := assembleCommand_shape h
  · obtain ⟨vy, vcb, vcr, -, -, -, rfl⟩ := assembleCommand_data_iff.mp h
    exact ⟨.inl ⟨rfl, rfl⟩, rfl⟩
  · obtain ⟨va, vb, vc, vsp, vrg, vdi, vdd, -, rfl⟩ := assembleCommand_cvt_iff.mp h
    exact ⟨.inr ⟨.inl rfl, rfl⟩, rfl⟩
  · obtain ⟨va, vb, vc, vsp, vrg, vdi, vdd, -, rfl⟩ := assembleCommand_plane_iff.mp h
    exact ⟨.inr ⟨.inr rfl, rfl⟩, rfl⟩

/-! ### Texts and blanks -/

/-- The text begins with a character that is no blank. -/
def StartsPlain (l : List Char) : Prop := ∃ c rest, l = c :: rest ∧ isBlank c = false

/-- The text ends with a character that is no blank. -/
def EndsPlain (l : List Char) : Prop := ∃ init c, l = init ++ [c] ∧ isBlank c = false

theorem StartsPlain.append {l : List Char} (h : StartsPlain l) (m : List Char) : StartsPlain (l ++ m) := by
  obtain ⟨c, rest, rfl, hc⟩ := h
  exact ⟨c, rest ++ m, rfl, hc⟩

theorem EndsPlain.append_left {m : List Char} (h : EndsPlain m) (l : List Char) : EndsPlain (l ++ m) := by
  obtain ⟨init, c, rfl, hc⟩ := h
  exact ⟨l ++ init, c, (List.append_assoc l init [c]).symm, hc⟩

theorem dropWhile_of_startsPlain {l : List Char} (h : StartsPlain l) : l.dropWhile isBlank = l := by
  obtain ⟨c, rest, rfl, hc⟩ := h
  rw [List.dropWhile_cons, if_neg (by simp [hc])]

theorem strip_of_plain_ends {l : List Char} (h : StartsPlain l) (h' : EndsPlain l) : strip l = l := by
  obtain ⟨init, c, rfl, hc⟩ := h'
  have hlast : StartsPlain (init ++ [c]).reverse := ⟨c, init.reverse, by simp, hc⟩
  rw [strip, dropWhile_of_startsPlain h, dropWhile_of_startsPlain hlast, List.reverse_reverse]

/-- A leading blank does not count. -/
theorem strip_space_cons (l : List Char) : strip (' ' :: l) = strip l := by
  rw [strip, List.dropWhile_cons, if_pos (by decide), ← strip]

theorem isBlank_of_plainText {l : List Char} (h : PlainText l) : ∀ c ∈ l, isBlank c = false := by
  intro c hc
  obtain ⟨hspace, htab, -⟩ := h.2 c hc
  simp [isBlank, hspace, htab]

theorem no_comma_of_plainText {l : List Char} (h : PlainText l) : ∀ c ∈ l, c ≠ ',' := fun c hc => (h.2 c hc).2.2.1

theorem no_semicolon_of_plainText {l : List Char} (h : PlainText l) : ∀ c ∈ l, c ≠ ';' := fun c hc => (h.2 c hc).2.2.2

theorem startsPlain_of_plainText {l : List Char} (h : PlainText l) : StartsPlain l := by
  obtain ⟨c, rest, rfl⟩ := List.exists_cons_of_ne_nil h.1
  exact ⟨c, rest, rfl, isBlank_of_plainText h c List.mem_cons_self⟩

theorem endsPlain_of_plainText {l : List Char} (h : PlainText l) : EndsPlain l := by
  obtain ⟨init, c, rfl⟩ := (List.eq_nil_or_concat' l).resolve_left h.1
  exact ⟨init, c, rfl, isBlank_of_plainText h c (by simp)⟩

theorem strip_of_plainText {l : List Char} (h : PlainText l) : strip l = l :=
  strip_of_plain_ends (startsPlain_of_plainText h) (endsPlain_of_plainText h)

/-- Texts joined by commas end as the last of them does. -/
theorem endsPlain_intercalate {l : List Char} {ls : List (List Char)} (h : ∀ m ∈ l :: ls, EndsPlain m) :
    EndsPlain ([','].intercalate (l :: ls)) := by
  induction ls generalizing l with
  | nil =>
    rw [List.intercalate_singleton]
    exact h l List.mem_cons_self
  | cons l' ls ih =>
    rw [List.intercalate_cons_cons]
    exact (ih fun m hm => h m (List.mem_cons_of_mem l hm)).append_left _

theorem startsPlain_intercalate {l : List Char} (ls : List (List Char)) (h : StartsPlain l) :
    StartsPlain ([','].intercalate (l :: ls)) := by
  cases ls with
  | nil => rwa [List.intercalate_singleton]
  | cons l' ls =>
    rw [List.intercalate_cons_cons, List.append_assoc]
    exact h.append _

theorem no_semicolon_intercalate {ls : List (List Char)} (h : ∀ l ∈ ls, ∀ c ∈ l, c ≠ ';') :
    ∀ c ∈ [','].intercalate ls, c ≠ ';' := by
  induction ls with
  | nil => exact nofun
  | cons l ls ih =>
    obtain ⟨hl, hls⟩ := List.forall_mem_cons.mp h
    cases ls with
    | nil => rwa [List.intercalate_singleton]
    | cons l' ls =>
      rw [List.intercalate_cons_cons]
      intro c hc
      obtain hc | hc := List.mem_append.mp hc
      · obtain hc | hc := List.mem_append.mp hc
        · exact hl c hc
        · rw [List.mem_singleton.mp hc]
          decide
      · exact ih hls c hc

/-! ### A line -/

/-- A comment is not part of the line. -/
theorem takeWhile_of_lineEnd {line ending : List Char} (hline : ∀ c ∈ line, c ≠ ';') (hend : LineEnd ending) :
    (line ++ ending).takeWhile (· != ';') = line := by
  have hnone : ending.takeWhile (· != ';') = [] := by
    obtain rfl | hhead := hend
    · rfl
    · cases ending with
      | nil => rfl
      | cons c rest =>
        cases Option.some.inj hhead
        rfl
  rw [List.takeWhile_append_of_pos (by simpa using hline), hnone, List.append_nil]

/-- A line of a mnemonic, a blank and operands, by its parts. -/
theorem assembleLine_eq {mnemonic rest ending : List Char} (hm : PlainText mnemonic) (hstart : StartsPlain rest)
    (hends : EndsPlain rest) (hrest : ∀ c ∈ rest, c ≠ ';') (hend : LineEnd ending) :
    assembleLine (String.ofList (mnemonic ++ ' ' :: rest ++ ending)) =
      if mnemonic = ".word".toList then (rawWord rest).map (fun w => [w])
      else (assembleCommand mnemonic ((rest.splitOn ',').map strip)).map (fun i => [encode i]) := by
  have hblank := isBlank_of_plainText hm
  have hline : ∀ c ∈ mnemonic ++ ' ' :: rest, c ≠ ';' := by
    intro c hc
    obtain hc | hc := List.mem_append.mp hc
    · exact no_semicolon_of_plainText hm c hc
    · obtain rfl | hc := List.mem_cons.mp hc
      · decide
      · exact hrest c hc
  have hstrip : strip (mnemonic ++ ' ' :: rest) = mnemonic ++ ' ' :: rest :=
    strip_of_plain_ends ((startsPlain_of_plainText hm).append _)
      ((hends.append_left [' ']).append_left mnemonic)
  have htake : (mnemonic ++ ' ' :: rest).takeWhile (fun c => !isBlank c) = mnemonic := by
    rw [List.takeWhile_append_of_pos (by simpa using hblank), List.takeWhile_cons, if_neg (by decide), List.append_nil]
  have hdrop : (mnemonic ++ ' ' :: rest).dropWhile (fun c => !isBlank c) = ' ' :: rest := by
    rw [List.dropWhile_append_of_pos (by simpa using hblank), List.dropWhile_cons, if_neg (by decide)]
  have hne : ¬ mnemonic ++ ' ' :: rest = [] := by simp
  simp only [assembleLine, String.toList_ofList, takeWhile_of_lineEnd hline hend, hstrip, htake, hdrop, strip_space_cons,
    strip_of_plain_ends hstart hends, if_neg hne]

/-- The operands as written are those between the commas, without the blanks around them. -/
theorem map_strip_splitOn {op : List Char} {ops : List (List Char)} (hop : PlainText op) (hops : ∀ l ∈ ops, PlainText l) :
    (([','].intercalate (op :: ops.map (fun l => ' ' :: l))).splitOn ',').map strip = op :: ops := by
  have hcomma : ∀ l ∈ op :: ops.map (fun l => ' ' :: l), ',' ∉ l := by
    rw [List.forall_mem_cons, List.forall_mem_map]
    refine ⟨fun h => no_comma_of_plainText hop _ h rfl, fun l hl h => ?_⟩
    obtain h | h := List.mem_cons.mp h
    · exact absurd h (by decide)
    · exact no_comma_of_plainText (hops l hl) _ h rfl
  have hstrip : ops.map (fun l => strip (' ' :: l)) = ops.map id :=
    List.map_congr_left fun l hl => (strip_space_cons l).trans (strip_of_plainText (hops l hl))
  rw [List.splitOn_intercalate ',' hcomma (List.cons_ne_nil _ _), List.map_cons, List.map_map, strip_of_plainText hop]
  exact congrArg _ (hstrip.trans (List.map_id _))

theorem assembleLine_command {mnemonic op : List Char} {ops : List (List Char)} {ending : List Char} (hm : PlainText mnemonic)
    (hword : mnemonic ≠ ".word".toList) (hop : PlainText op) (hops : ∀ l ∈ ops, PlainText l) (hend : LineEnd ending) :
    assembleLine (String.ofList
        (mnemonic ++ ' ' :: [','].intercalate (op :: ops.map (fun l => ' ' :: l)) ++ ending)) =
      (assembleCommand mnemonic (op :: ops)).map (fun i => [encode i]) := by
  have hends : ∀ m ∈ op :: ops.map (fun l => ' ' :: l), EndsPlain m := by
    rw [List.forall_mem_cons, List.forall_mem_map]
    exact ⟨endsPlain_of_plainText hop, fun l hl => (endsPlain_of_plainText (hops l hl)).append_left [' ']⟩
  have hsemicolon : ∀ m ∈ op :: ops.map (fun l => ' ' :: l), ∀ c ∈ m, c ≠ ';' := by
    rw [List.forall_mem_cons, List.forall_mem_map]
    refine ⟨no_semicolon_of_plainText hop, fun l hl c hc => ?_⟩
    obtain rfl | hc := List.mem_cons.mp hc
    · decide
    · exact no_semicolon_of_plainText (hops l hl) c hc
  rw [assembleLine_eq hm (startsPlain_intercalate _ (startsPlain_of_plainText hop)) (endsPlain_intercalate hends)
    (no_semicolon_intercalate hsemicolon) hend, if_neg hword, map_strip_splitOn hop hops]

theorem assembleLine_word {hex ending : List Char} (hhex : PlainText hex) (hend : LineEnd ending) :
    assembleLine (String.ofList (".word 0x".toList ++ hex ++ ending)) =
      (numberField 64 ("0x".toList ++ hex)).map (fun w => [w]) := by
  have hparts : ".word 0x".toList ++ hex = ".word".toList ++ ' ' :: ("0x".toList ++ hex) := rfl
  have hm : PlainText ".word".toList := by simp [PlainText]
  have hsemicolon : ∀ c ∈ "0x".toList ++ hex, c ≠ ';' := by
    intro c hc
    obtain hc | hc := List.mem_append.mp hc
    · rintro rfl
      exact absurd hc (by decide)
    · exact no_semicolon_of_plainText hhex c hc
  have hstart : StartsPlain ("0x".toList ++ hex) := ⟨'0', 'x' :: hex, rfl, by decide⟩
  have hends : EndsPlain ("0x".toList ++ hex) := (endsPlain_of_plainText hhex).append_left _
  rw [hparts, assembleLine_eq hm hstart hends hsemicolon hend, if_pos rfl]
  rfl

/-- Settles O6: the three commands by their operands, the names by evaluation, and a line by its parts. -/
theorem assemblerEmitsWellFormedCommands : Obligations.AssemblerEmitsWellFormedCommands := by
  refine ⟨fun y cb cr i => assembleCommand_data_iff, fun y cb cr sp rg di dd i => ?cvt, fun ly lcb lcr sp rg di dd i => ?plane,
    fun mnemonic ops i h => ?wellFormed, ⟨rfl, rfl, rfl, rfl, rfl, rfl, rfl, rfl, rfl⟩,
    fun mnemonic op ops ending hm hword hop hops hend => assembleLine_command hm hword hop hops hend,
    fun hex ending hhex hend => assembleLine_word hhex hend⟩
  case cvt => simpa only [ReadsSeven, and_assoc] using assembleCommand_cvt_iff
  case plane => simpa only [ReadsSeven, and_assoc] using assembleCommand_plane_iff
  case wellFormed =>
    obtain ⟨hshape, hwf⟩ := assembleCommand_eq_some h
    exact ⟨hshape, hwf, decode_encode i⟩

end Sys2Proof.Machine
end
